-- ==== Sys2Proof/Config.lean ====
section
/-! DEFINITION. The hardware parameters of `00_scope.md` rules R6 (`BYTE_WIDTH`) and R7. The two parameters
R7 leaves OPEN, `BIT_ORDER` and `T_OP`, are read by no rule and are left out (U9, U12, log 4); no value is free. -/

namespace Sys2Proof.Config

/-- `BYTE_WIDTH` (R6): every frame element is an unsigned 8-bit value. -/
abbrev byteWidth : Nat := 8

/-- `OP_WIDTH` (R7): the operation word has 6 bits. -/
abbrev opWidth : Nat := 6

/-- `FB_SIZE` (R7): the frame buffer has ten cells. -/
abbrev fbSize : Nat := 10

/-- `LEN_WIDTH` (R7): the length register has 4 bits. -/
abbrev lenWidth : Nat := 4

end Sys2Proof.Config
end

