-- ==== Sys2Proof/Word.lean ====
section
/-! DEFINITION. The bit-vector types of the block. The widths are written as numerals, so that arithmetic on them
reduces; `Laws/Words.lean` shows that they are the parameters of `Config`. -/

namespace Sys2Proof

/-- A frame byte: unsigned, 0 to 255 (R8). -/
abbrev Byte := BitVec 8

/-- The operation word `op[5:0]` (R60). -/
abbrev OpWord := BitVec 6

/-- The length register's contents (R25). -/
abbrev Len := BitVec 4

end Sys2Proof
end

