-- ==== Sys2Proof/Machine/Protocol.lean ====
section
/-! DEFINITION. The protocol: the closed command set (R5, R12) and every protocol constant in one place (R6, R27,
R28, N17), so that a correction touches one place. None is configurable. -/

namespace Sys2Proof.Machine

/-- `ActionKind`, in the document's declared order (R12). -/
inductive ActionKind where
  | dance
  | music
  | story
  | exercise
  | voice
deriving DecidableEq, Repr

/-- `DirectionKind`, in the document's declared order (R12). -/
inductive DirectionKind where
  | forward
  | left
  | backward
  | right
deriving DecidableEq, Repr

/-- The closed set of nine commands (R5, R12). -/
inductive Command where
  | act (a : ActionKind)
  | mov (d : DirectionKind)
deriving DecidableEq, Repr

/-- The five actions in declared order (R12). -/
def ActionKind.all : List ActionKind := [.dance, .music, .story, .exercise, .voice]

/-- The four directions in declared order, also the order of keys held together (R12, R157). -/
def DirectionKind.all : List DirectionKind := [.forward, .left, .backward, .right]

/-- The nine commands (R5). -/
def Command.all : List Command := ActionKind.all.map .act ++ DirectionKind.all.map .mov

/-! ### Constants (R6) -/

/-- `ACT_LEN`. -/
def actLen : Nat := 6

/-- `MOV_LEN`. -/
def movLen : Nat := 10

/-- `ACT_B0`. -/
def actB0 : Byte := 0xB3

/-- `ACT_B1`. -/
def actB1 : Byte := 0x02

/-- `ACT_B3`, the constant-zero position. -/
def actB3 : Byte := 0x00

/-- `ACT_B5`, the terminator. -/
def actB5 : Byte := 0xAA

/-- `MOV_B0`. -/
def movB0 : Byte := 0xB6

/-- `MOV_B1`. -/
def movB1 : Byte := 0x06

/-- `MOV_B2`. -/
def movB2 : Byte := 0x00

/-- `MOV_B3`. -/
def movB3 : Byte := 0x05

/-- `MOV_B5`. -/
def movB5 : Byte := 0x00

/-- `MOV_B6`. -/
def movB6 : Byte := 0x00

/-- `MOV_B7`. -/
def movB7 : Byte := 0x00

/-- `MOV_B8`, outside the checksum span and no terminator (R42, C3). -/
def movB8 : Byte := 0x00

/-- `CK_MODULUS`. -/
def ckModulus : Nat := 256

/-- `ACT_CK_IDX`. -/
def actCkIdx : Nat := 4

/-- `MOV_CK_IDX`. -/
def movCkIdx : Nat := 9

/-- First index and number of bytes of `ACT_CK_SPAN`: indices 2 to 3 (R69). -/
def actCkSpan : Nat × Nat := (2, 2)

/-- First index and number of bytes of `MOV_CK_SPAN`: indices 2 to 7 (R69, C1 to C4). -/
def movCkSpan : Nat × Nat := (2, 6)

/-- `ACT_OPCODE` (R27); three bits hold every code (R68). -/
def actOpcode : ActionKind → BitVec 3
  | .dance => 2
  | .music => 3
  | .story => 1
  | .exercise => 0
  | .voice => 4

/-- `DIR_CODE` (R27); three bits hold every code (R68). -/
def dirCode : DirectionKind → BitVec 3
  | .forward => 3
  | .left => 5
  | .backward => 7
  | .right => 1

end Sys2Proof.Machine
end

