-- ==== Sys2Proof/Machine/Checksum.lean ====
section
/-! DEFINITION. The checksum function (R90), over byte sequences of any length, and its running form (R91). -/

namespace Sys2Proof.Machine

/-- The sum of the bytes as unsigned integers, with no limit on the intermediate value (R90). -/
def trueSum (s : List Byte) : Nat := (s.map BitVec.toNat).sum

/-- `Checksum8(s)`: the total reduced once modulo 256 (R90). -/
def checksum8 (s : List Byte) : Byte := BitVec.ofNat 8 (trueSum s % ckModulus)

/-- The running accumulator of an 8-bit adder that drops its carry, started at zero (R91). -/
def checksumRunning (s : List Byte) : Byte := s.foldl (fun acc b => acc + b) 0

end Sys2Proof.Machine
end

