-- ==== Sys2Proof/Syntax.lean ====
section
/-! DEFINITION. The instructions: one constructor per row of `spec/opcode_table.json` (R64). -/

namespace Sys2Proof

/-- The fifteen rows of the operation-word table (R64). `low` is the ignored field `op[3:0]` of R72; `sel` is the
selector `S = op[2:0]` of the two reserved rows that hold more than one word (R71). No meaning reads either; they are
kept so that decoding loses no bit (log 5, DESIGN CHOICE). -/
inductive Instr where
  /-- `NOP`, `00xxxx` (R120). -/
  | nop (low : BitVec 4)
  /-- `ACT.DANCE`, `010000` (R101). -/
  | actDance
  /-- `ACT.MUSIC`, `010001` (R102). -/
  | actMusic
  /-- `ACT.STORY`, `010010` (R103). -/
  | actStory
  /-- `ACT.EXERCISE`, `010011` (R104). -/
  | actExercise
  /-- `ACT.VOICE`, `010100` (R105). -/
  | actVoice
  /-- `RESERVED.ACT5`, `010101` (R123). -/
  | reservedAct5
  /-- `RESERVED.ACT6_7`, `01011x` (R123): `sel` is 6 or 7. -/
  | reservedAct67 (sel : BitVec 3)
  /-- `MOV.FORWARD`, `011000` (R111). -/
  | movForward
  /-- `MOV.LEFT`, `011001` (R112). -/
  | movLeft
  /-- `MOV.BACKWARD`, `011010` (R113). -/
  | movBackward
  /-- `MOV.RIGHT`, `011011` (R114). -/
  | movRight
  /-- `RESERVED.MOV4_7`, `0111xx` (R123): `sel` is 4 to 7. -/
  | reservedMov47 (sel : BitVec 3)
  /-- `TAKE`, `10xxxx` (R121). -/
  | take (low : BitVec 4)
  /-- `RESET`, `11xxxx` (R122). -/
  | reset (low : BitVec 4)
deriving DecidableEq, Repr

end Sys2Proof
end

