-- ==== Sys2Proof/WellFormed.lean ====
section
/-! DEFINITION. Which terms of `Instr` stand for an operation word: the two reserved rows that carry a selector
carry one of their own row (R71). Every other term stands for one. -/

namespace Sys2Proof

/-- R71: under `K = 0` row `RESERVED.ACT6_7` holds the selectors 6 and 7; under `K = 1` row `RESERVED.MOV4_7`
holds 4 to 7. -/
def Instr.wellFormed : Instr → Bool
  | .nop _ => true
  | .actDance => true
  | .actMusic => true
  | .actStory => true
  | .actExercise => true
  | .actVoice => true
  | .reservedAct5 => true
  | .reservedAct67 sel => decide (6 ≤ sel.toNat)
  | .movForward => true
  | .movLeft => true
  | .movBackward => true
  | .movRight => true
  | .reservedMov47 sel => decide (4 ≤ sel.toNat)
  | .take _ => true
  | .reset _ => true

end Sys2Proof
end

