-- ==== Sys2Proof/Decode.lean ====
section
/-! DEFINITION. The decoder (R60 to R64, R71, R72), the rejection of numbers that are no operation word, the encoder,
and the operation-word table as data (R64, `spec/opcode_table.json`). -/

namespace Sys2Proof

/-- `OPC = op[5:4]` (R60). -/
def OpWord.opc (op : OpWord) : BitVec 2 := op.extractLsb' 4 2

/-- `K = op[3]` (R60): `false` action, `true` movement (R62). -/
def OpWord.k (op : OpWord) : Bool := op.getLsbD 3

/-- `S = op[2:0]` (R60). -/
def OpWord.s (op : OpWord) : BitVec 3 := op.extractLsb' 0 3

/-- `op[3:0]`, ignored unless `OPC = 01` (R72). -/
def OpWord.low (op : OpWord) : BitVec 4 := op.extractLsb' 0 4

/-- The operation classes (R61). -/
inductive OpClass where
  | nop
  | encode
  | take
  | reset
deriving DecidableEq, Repr

/-- The class each value of `OPC` stands for (R61). -/
def OpClass.ofOpc (opc : BitVec 2) : OpClass :=
  match opc.toNat with
  | 0 => .nop
  | 1 => .encode
  | 2 => .take
  | _ => .reset

/-- The value of `OPC` of a class (R61). -/
def OpClass.opc : OpClass → BitVec 2
  | .nop => 0b00#2
  | .encode => 0b01#2
  | .take => 0b10#2
  | .reset => 0b11#2

/-- The rows of `OPC = 01`, `K = 0`, by selector (R63, R71). -/
def decodeAction (s : BitVec 3) : Instr :=
  match s.toNat with
  | 0 => .actDance
  | 1 => .actMusic
  | 2 => .actStory
  | 3 => .actExercise
  | 4 => .actVoice
  | 5 => .reservedAct5
  | _ => .reservedAct67 s

/-- The rows of `OPC = 01`, `K = 1`, by selector (R63, R71). -/
def decodeMovement (s : BitVec 3) : Instr :=
  match s.toNat with
  | 0 => .movForward
  | 1 => .movLeft
  | 2 => .movBackward
  | 3 => .movRight
  | _ => .reservedMov47 s

/-- The decoder, total over the 64 words (R64); `OPC` is looked at first, `K` and `S` only in class ENCODE (R136). -/
def decode (op : OpWord) : Instr :=
  match OpClass.ofOpc (OpWord.opc op) with
  | .nop => .nop (OpWord.low op)
  | .encode => if OpWord.k op then decodeMovement (OpWord.s op) else decodeAction (OpWord.s op)
  | .take => .take (OpWord.low op)
  | .reset => .reset (OpWord.low op)

/-- Whether a word is reserved: class ENCODE with `K = 0` and `S >= 5`, or `K = 1` and `S >= 4` (R71, R130). -/
def OpWord.isReserved (op : OpWord) : Bool :=
  OpWord.opc op == 0b01#2 &&
    if OpWord.k op then decide (4 ≤ (OpWord.s op).toNat) else decide (5 ≤ (OpWord.s op).toNat)

/-- Why a number is no operation word. -/
inductive DecodeError where
  /-- Raised by `OpWord.ofRaw` for a number with a bit above `op[5]`: the port has 6 bits (R60), so there is no such
  word. Safe: nothing is run (log 7). -/
  | widerThanPort (n : Nat)
deriving DecidableEq, Repr

/-- The operation word whose bits are `n`, bit 0 the least significant (R8, R60). -/
def OpWord.ofRaw (n : Nat) : Except DecodeError OpWord :=
  if n < 2 ^ Config.opWidth then .ok (BitVec.ofNat 6 n) else .error (.widerThanPort n)

/-- The decoder over any number, rejecting by name what is no operation word. -/
def decodeRaw (n : Nat) : Except DecodeError Instr :=
  match OpWord.ofRaw n with
  | .ok op => .ok (decode op)
  | .error e => .error e

/-- What the decoder reads from a word whose bits are `w`. The operation word is the only unit of the encoding, so the
number of bits the table's row is padded to plays no part; bits above `op[5]` make it no operation word (log 7). -/
def decodeTableWord (_nbits w : Nat) : Option Instr :=
  match decodeRaw w with
  | .ok i => some i
  | .error _ => none

/-- A word of class ENCODE from its fields `K` and `S` (R60, R61). -/
def encodeFields (k : Bool) (s : BitVec 3) : OpWord :=
  OpClass.encode.opc ++ BitVec.ofBool k ++ s

/-- The word an instruction stands for (R64, R72). -/
def encode : Instr → OpWord
  | .nop low => OpClass.nop.opc ++ low
  | .actDance => encodeFields false 0b000#3
  | .actMusic => encodeFields false 0b001#3
  | .actStory => encodeFields false 0b010#3
  | .actExercise => encodeFields false 0b011#3
  | .actVoice => encodeFields false 0b100#3
  | .reservedAct5 => encodeFields false 0b101#3
  | .reservedAct67 sel => encodeFields false sel
  | .movForward => encodeFields true 0b000#3
  | .movLeft => encodeFields true 0b001#3
  | .movBackward => encodeFields true 0b010#3
  | .movRight => encodeFields true 0b011#3
  | .reservedMov47 sel => encodeFields true sel
  | .take low => OpClass.take.opc ++ low
  | .reset low => OpClass.reset.opc ++ low

/-- The row label `spec/opcode_table.json` gives an instruction. -/
def Instr.mnemonic : Instr → String
  | .nop _ => "NOP"
  | .actDance => "ACT.DANCE"
  | .actMusic => "ACT.MUSIC"
  | .actStory => "ACT.STORY"
  | .actExercise => "ACT.EXERCISE"
  | .actVoice => "ACT.VOICE"
  | .reservedAct5 => "RESERVED.ACT5"
  | .reservedAct67 _ => "RESERVED.ACT6_7"
  | .movForward => "MOV.FORWARD"
  | .movLeft => "MOV.LEFT"
  | .movBackward => "MOV.BACKWARD"
  | .movRight => "MOV.RIGHT"
  | .reservedMov47 _ => "RESERVED.MOV4_7"
  | .take _ => "TAKE"
  | .reset _ => "RESET"

/-- One row of the operation-word table: the words `op` with `op &&& mask = pattern`. -/
structure OpRow where
  label : String
  mask : OpWord
  pattern : OpWord
deriving DecidableEq, Repr

/-- Whether a row holds a word. -/
def OpRow.holds (r : OpRow) (op : OpWord) : Bool := op &&& r.mask == r.pattern

/-- The patterns of R64, in the order of `spec/opcode_table.json`; `x` is a bit outside the mask. -/
def opTable : List OpRow :=
  [⟨"NOP", 0b110000#6, 0b000000#6⟩,
   ⟨"ACT.DANCE", 0b111111#6, 0b010000#6⟩,
   ⟨"ACT.MUSIC", 0b111111#6, 0b010001#6⟩,
   ⟨"ACT.STORY", 0b111111#6, 0b010010#6⟩,
   ⟨"ACT.EXERCISE", 0b111111#6, 0b010011#6⟩,
   ⟨"ACT.VOICE", 0b111111#6, 0b010100#6⟩,
   ⟨"RESERVED.ACT5", 0b111111#6, 0b010101#6⟩,
   ⟨"RESERVED.ACT6_7", 0b111110#6, 0b010110#6⟩,
   ⟨"MOV.FORWARD", 0b111111#6, 0b011000#6⟩,
   ⟨"MOV.LEFT", 0b111111#6, 0b011001#6⟩,
   ⟨"MOV.BACKWARD", 0b111111#6, 0b011010#6⟩,
   ⟨"MOV.RIGHT", 0b111111#6, 0b011011#6⟩,
   ⟨"RESERVED.MOV4_7", 0b111100#6, 0b011100#6⟩,
   ⟨"TAKE", 0b110000#6, 0b100000#6⟩,
   ⟨"RESET", 0b110000#6, 0b110000#6⟩]

end Sys2Proof
end

