-- ==== Sys2Proof/Machine/Operands.lean ====
section
/-! DEFINITION. Operand assembly (R63, R68): selector to member, member to protocol code, code to frame byte; and
which command of the closed set (R12) an operation word spells. -/

namespace Sys2Proof.Machine

/-- `zext_8` of a 3-bit code (R9, R68, R125). -/
def zext8 (code : BitVec 3) : Byte := code.zeroExtend 8

/-- Byte 2 of the action frame of `a` (R68). -/
def opcodeByte (a : ActionKind) : Byte := zext8 (actOpcode a)

/-- Byte 4 of the movement frame of `d` (R68). -/
def directionByte (d : DirectionKind) : Byte := zext8 (dirCode d)

/-- The selector of an action: its ordinal, not its code (R63). -/
def ActionKind.selector : ActionKind → BitVec 3
  | .dance => 0b000#3
  | .music => 0b001#3
  | .story => 0b010#3
  | .exercise => 0b011#3
  | .voice => 0b100#3

/-- The selector of a direction: its ordinal, not its code (R63). -/
def DirectionKind.selector : DirectionKind → BitVec 3
  | .forward => 0b000#3
  | .left => 0b001#3
  | .backward => 0b010#3
  | .right => 0b011#3

/-- The operation word of a command: class ENCODE, `K` its frame kind, `S` its ordinal (R60 to R63). -/
def Command.word : Command → OpWord
  | .act a => encodeFields false a.selector
  | .mov d => encodeFields true d.selector

/-- The action a selector names under `K = 0`; `none` for the reserved selectors 5, 6, 7 (R63). -/
def ActionKind.ofSelector (s : BitVec 3) : Option ActionKind :=
  ActionKind.all[s.toNat]?

/-- The direction a selector names under `K = 1`; `none` for the reserved selectors 4 to 7 (R63). -/
def DirectionKind.ofSelector (s : BitVec 3) : Option DirectionKind :=
  DirectionKind.all[s.toNat]?

/-- The command an operation word spells: `none` outside the closed set (R5, R62, R63, R71). -/
def Command.ofWord (op : OpWord) : Option Command :=
  match OpClass.ofOpc (OpWord.opc op) with
  | .encode =>
    if OpWord.k op then (DirectionKind.ofSelector (OpWord.s op)).map .mov
    else (ActionKind.ofSelector (OpWord.s op)).map .act
  | .nop => none
  | .take => none
  | .reset => none

end Sys2Proof.Machine
end

