-- ==== Sys2Proof/Machine/Frames.lean ====
section
/-! DEFINITION. The two frame formats and the encode functions (R65, R66, R100, R110). -/

namespace Sys2Proof.Machine

/-- `EncodeAction(a)` (R100, layout R65). -/
def encodeAction (a : ActionKind) : List Byte :=
  let b2 := opcodeByte a
  let b3 := actB3
  let ck := checksum8 [b2, b3]
  [actB0, actB1, b2, b3, ck, actB5]

/-- `EncodeMovement(d)` (R110, layout R66). -/
def encodeMovement (d : DirectionKind) : List Byte :=
  let b4 := directionByte d
  let span := [movB2, movB3, b4, movB5, movB6, movB7]
  let ck := checksum8 span
  [movB0, movB1] ++ span ++ [movB8, ck]

/-- The frame of a command: the kind alone decides layout, length and span (R62, R67). -/
def encodeCommand : Command → List Byte
  | .act a => encodeAction a
  | .mov d => encodeMovement d

/-- The index of the checksum in a command's frame (R69). -/
def Command.checksumIdx : Command → Nat
  | .act _ => actCkIdx
  | .mov _ => movCkIdx

/-- The nine frames the block can hand over (R5, R74). -/
def legalFrames : List (List Byte) := Command.all.map encodeCommand

/-- The bytes of a frame at a checksum span (R69). -/
def spanOf (span : Nat × Nat) (f : List Byte) : List Byte := (f.drop span.1).take span.2

end Sys2Proof.Machine
end

