-- ==== Sys2Proof/Machine/State.lean ====
section
/-! DEFINITION. The state: the block's four items (R20) and, beside them, the two fields of the model's own that stand
for the world around the block (R10, R163): what the host does next and the outcomes handed back so far. -/

namespace Sys2Proof.Machine

/-- The outcome alphabet of a step: exactly four values (R11, R130). -/
inductive StepOutcome where
  /-- The operation completed and hands nothing over. -/
  | ok
  /-- A `TAKE` handed over the byte sequence `s`, index 0 first (R43). -/
  | frame (s : List Byte)
  /-- A reserved ENCODE word was presented (R123). -/
  | unknownCommand
  /-- A `TAKE` found no valid frame (R121). -/
  | noFrame
deriving DecidableEq, Repr

/-- The block's state, whole: exactly four items and nothing else (R20, R29). -/
structure Block where
  /-- `FB[0]` to `FB[9]` (R21). -/
  fb : Vector Byte 10
  /-- `LEN`: the number of meaningful bytes in `FB` (R25). -/
  len : Len
  /-- `VALID`: a complete frame waits to be handed over (R23). -/
  valid : Bool
  /-- `ERR`: the most recent ENCODE word was reserved (R24). -/
  err : Bool
deriving DecidableEq, Repr

/-- The reset state of the block: every item zero (R31). -/
def Block.reset : Block where
  fb := Vector.replicate 10 0
  len := 0
  valid := false
  err := false

/-- What the host can do to the block in one step (R150, R164). -/
inductive HostEvent where
  /-- Presents one operation word (R10). -/
  | word (op : OpWord)
  /-- Drives the pin reset, where an implementation has one (R31, R150; log 6). -/
  | pinReset
  /-- Two drivers present words at once: outside the spec, no step is defined (R156, U10; log 3). -/
  | contention
deriving DecidableEq, Repr

/-- The machine: the block, and the model's own account of the world around it. -/
structure State where
  /-- The block's four items (R20). -/
  block : Block
  /-- The MODEL's own field: what the host does next, next event first (R10, R48, R163; log 1, DESIGN CHOICE). -/
  host : List HostEvent
  /-- The MODEL's own field: the outcomes of the steps so far, oldest first (R11, R163; log 2, DESIGN CHOICE). -/
  outcomes : List StepOutcome
deriving DecidableEq, Repr

/-- The machine right after reset: the block's items all zero (R31), no event announced, no outcome yet (R163: a run
starts from the reset state with its words still to come). -/
def State.reset : State where
  block := Block.reset
  host := []
  outcomes := []

/-- Why the machine stops. -/
inductive Fault where
  /-- Raised by `step` alone, at `HostEvent.contention`; no instruction raises it. Safe: the spec defines no step for
  two drivers at once, a claim proved of the block assumes a single driver (R156, R164, U10; log 3). -/
  | portContention
deriving DecidableEq, Repr

/-- Why an instruction has no meaning. -/
inductive Refusal where
  /-- Raised by an arm of `exec` for an instruction without a meaning; every instruction has one, so nothing raises
  it. Safe: the machine stops. -/
  | notModelled (mnemonic : String)
deriving DecidableEq, Repr

end Sys2Proof.Machine
end

