-- ==== Sys2Proof/Machine/Flags.lean ====
section
/-! DEFINITION. Every way an operation writes the flags `VALID` and `ERR` (R23, R24, R32). The checksum's arithmetic
sets no flag (R91). -/

namespace Sys2Proof.Machine

/-- A legal ENCODE word: `VALID <- 1`, `ERR <- 0` (R100, R110). -/
def Block.flagBuilt (b : Block) : Block := { b with valid := true, err := false }

/-- A reserved ENCODE word: `VALID <- 0`, `ERR <- 1` (R123). -/
def Block.flagReserved (b : Block) : Block := { b with valid := false, err := true }

/-- A `TAKE` that hands a frame over: `VALID <- 0`, `ERR` as it was (R121). -/
def Block.flagTaken (b : Block) : Block := { b with valid := false }

/-- `RESET`: `VALID <- 0`, `ERR <- 0` (R122). -/
def Block.flagReset (b : Block) : Block := { b with valid := false, err := false }

end Sys2Proof.Machine
end

