-- ==== Sys2Proof/Machine/Ops.lean ====
section
/-! DEFINITION. The named operations over the block and the machine: the frame buffer, the end of a step (`return` and
`raise`, R9, R134), what the host sees (R26, R163), and how the next operation word reaches the block (R10, R48). -/

namespace Sys2Proof.Machine

/-! ### The frame buffer (R21, R40, R46) -/

/-- All ten cells at once: the frame from index 0 on, `0x00` behind it (R21, R100, D8). -/
def bufferOf (f : List Byte) : Vector Byte 10 := Vector.ofFn fun i => f.getD i.val 0

/-- The buffer and its length written whole in one step: `FB <- f` padded with zeros, `LEN <- n` (R46). -/
def Block.writeFrame (f : List Byte) (n : Nat) (b : Block) : Block :=
  { b with fb := bufferOf f, len := BitVec.ofNat 4 n }

/-- The buffer emptied: ten cells `0x00`, `LEN <- 0` (R122, R123). -/
def Block.clearFrame (b : Block) : Block :=
  { b with fb := Vector.replicate 10 0, len := 0 }

/-- `[FB[0], ..., FB[LEN-1]]`, what `TAKE` hands over, index 0 first (R43, R121). -/
def Block.heldFrame (b : Block) : List Byte := b.fb.toList.take b.len.toNat

/-! ### What the host sees (R26, R47, R163) -/

/-- The three named outputs the host sees continuously (R26). -/
structure Outputs where
  len : Len
  valid : Bool
  err : Bool
deriving DecidableEq, Repr

/-- Observing `LEN`, `VALID`, `ERR`: a function of the state, with no effect on it (R26, R47). -/
def Block.outputs (b : Block) : Outputs := ⟨b.len, b.valid, b.err⟩

/-- The observable result of a run so far: its outcomes in order and the three outputs (R163). -/
def State.observation (s : State) : List StepOutcome × Outputs := (s.outcomes, s.block.outputs)

/-! ### The end of a step (R9, R11, R134) -/

/-- `return`: the step ends with outcome `o` and leaves the block as `b`; nothing else of the state is touched (R32). -/
def State.endStep (b : Block) (o : StepOutcome) (s : State) : Host.Outcome State Fault Refusal :=
  .next { s with block := b, outcomes := s.outcomes ++ [o] }

/-- `raise`: the step ends with a failing outcome after exactly the state changes made before it. There is no trap:
nothing is saved, no mode or mask changes, and control goes nowhere (R134); there is nothing to return from (R135). -/
def State.raise (b : Block) (o : StepOutcome) (s : State) : Host.Outcome State Fault Refusal :=
  State.endStep b o s

/-! ### Presenting and accepting operation words (R10, R48, R150, R156) -/

/-- The host presents `op` next, before anything it was going to do. -/
def State.present (op : OpWord) (s : State) : State := { s with host := .word op :: s.host }

/-- The host presents the words `ops`, in order, before anything it was going to do (R48). -/
def State.presentAll (ops : List OpWord) (s : State) : State :=
  { s with host := ops.map .word ++ s.host }

/-- What the next step finds at the block's pins. -/
inductive Presented where
  /-- Nothing is presented; the block is as in the state given. -/
  | idle (s : State)
  /-- An operation word, to be executed in the state given, in which it is no longer waiting. -/
  | word (op : OpWord) (s : State)
  /-- A pin reset, with the state it leaves. -/
  | pinReset (s : State)
  /-- No step is defined, for the reason given. -/
  | stop (r : Fault)
deriving DecidableEq, Repr

/-- The next event taken from the host: a word (R10), a pin reset, which leaves the reset state of the block in one
step and has no outcome of the alphabet of R11 (R150, log 6), two drivers at once (R156, log 3), or nothing, in which
case the block holds its state (R141). -/
def State.accept (s : State) : Presented :=
  match s.host with
  | [] => .idle s
  | .word op :: rest => .word op { s with host := rest }
  | .pinReset :: rest => .pinReset { s with block := Block.reset, host := rest }
  | .contention :: _ => .stop .portContention

end Sys2Proof.Machine
end

