-- ==== Sys2Proof/Machine/Actions.lean ====
section
/-! DEFINITION. The five `ACT` words (`41_action_frames.md`). -/

namespace Sys2Proof.Machine

/-- The block after `StepAct(a)`; the state before is not read (R100). -/
def Block.afterAct (a : ActionKind) (b : Block) : Block :=
  ((b.writeFrame (encodeAction a) actLen)).flagBuilt

/-- `StepAct(a)` (R100). -/
def stepAct (a : ActionKind) (s : State) : Host.Outcome State Fault Refusal :=
  State.endStep (s.block.afterAct a) .ok s

/-- `ACT.DANCE` (R101). -/
def execActDance (s : State) : Host.Outcome State Fault Refusal := stepAct .dance s

/-- `ACT.MUSIC` (R102). -/
def execActMusic (s : State) : Host.Outcome State Fault Refusal := stepAct .music s

/-- `ACT.STORY` (R103). -/
def execActStory (s : State) : Host.Outcome State Fault Refusal := stepAct .story s

/-- `ACT.EXERCISE` (R104). -/
def execActExercise (s : State) : Host.Outcome State Fault Refusal := stepAct .exercise s

/-- `ACT.VOICE` (R105). -/
def execActVoice (s : State) : Host.Outcome State Fault Refusal := stepAct .voice s

end Sys2Proof.Machine
end

