-- ==== Sys2Proof/Machine/Control.lean ====
section
/-! DEFINITION. `NOP`, `TAKE`, `RESET` and the reserved ENCODE words (`43_control_ops.md`). The ignored bits `low`
(R72) and the reserved selector `sel` (R123: no code is made up from `S`) are read by none of them. -/

namespace Sys2Proof.Machine

/-- `NOP`: `StepNop` (R120). -/
def execNop (_low : BitVec 4) (s : State) : Host.Outcome State Fault Refusal :=
  State.endStep s.block .ok s

/-- `TAKE`: `StepTake` (R121). -/
def execTake (_low : BitVec 4) (s : State) : Host.Outcome State Fault Refusal :=
  if s.block.valid then State.endStep s.block.flagTaken (.frame s.block.heldFrame) s
  else State.raise s.block .noFrame s

/-- `RESET`: `StepReset` (R122). -/
def execReset (_low : BitVec 4) (s : State) : Host.Outcome State Fault Refusal :=
  State.endStep (s.block.clearFrame).flagReset .ok s

/-- `StepReserved`, the one behaviour of the seven reserved words (R123). -/
def stepReserved (s : State) : Host.Outcome State Fault Refusal :=
  State.raise (s.block.clearFrame).flagReserved .unknownCommand s

/-- `RESERVED.ACT5`: the word `0x15` (R123). -/
def execReservedAct5 (s : State) : Host.Outcome State Fault Refusal := stepReserved s

/-- `RESERVED.ACT6_7`: the words `0x16` and `0x17` (R123). -/
def execReservedAct67 (_sel : BitVec 3) (s : State) : Host.Outcome State Fault Refusal := stepReserved s

/-- `RESERVED.MOV4_7`: the words `0x1C` to `0x1F` (R123). -/
def execReservedMov47 (_sel : BitVec 3) (s : State) : Host.Outcome State Fault Refusal := stepReserved s

end Sys2Proof.Machine
end

