-- ==== Sys2Proof/Machine/Movements.lean ====
section
/-! DEFINITION. The four `MOV` words (`42_movement_frames.md`). -/

namespace Sys2Proof.Machine

/-- The block after `StepMov(d)`; the state before is not read (R110). -/
def Block.afterMov (d : DirectionKind) (b : Block) : Block :=
  ((b.writeFrame (encodeMovement d) movLen)).flagBuilt

/-- `StepMov(d)` (R110). -/
def stepMov (d : DirectionKind) (s : State) : Host.Outcome State Fault Refusal :=
  State.endStep (s.block.afterMov d) .ok s

/-- `MOV.FORWARD` (R111). -/
def execMovForward (s : State) : Host.Outcome State Fault Refusal := stepMov .forward s

/-- `MOV.LEFT` (R112). -/
def execMovLeft (s : State) : Host.Outcome State Fault Refusal := stepMov .left s

/-- `MOV.BACKWARD` (R113). -/
def execMovBackward (s : State) : Host.Outcome State Fault Refusal := stepMov .backward s

/-- `MOV.RIGHT` (R114). -/
def execMovRight (s : State) : Host.Outcome State Fault Refusal := stepMov .right s

end Sys2Proof.Machine
end

