-- ==== Sys2Proof/Machine/Dispatch.lean ====
section
/-! DEFINITION. The dispatch: one arm per row of the operation-word table (R64). -/

namespace Sys2Proof.Machine

/-- One step's execution of a decoded operation word (R10, R64). -/
def exec (i : Instr) (s : State) : Host.Outcome State Fault Refusal :=
  match i with
  | .nop low => Sys2Proof.Machine.execNop low s
  | .actDance => Sys2Proof.Machine.execActDance s
  | .actMusic => Sys2Proof.Machine.execActMusic s
  | .actStory => Sys2Proof.Machine.execActStory s
  | .actExercise => Sys2Proof.Machine.execActExercise s
  | .actVoice => Sys2Proof.Machine.execActVoice s
  | .reservedAct5 => Sys2Proof.Machine.execReservedAct5 s
  | .reservedAct67 sel => Sys2Proof.Machine.execReservedAct67 sel s
  | .movForward => Sys2Proof.Machine.execMovForward s
  | .movLeft => Sys2Proof.Machine.execMovLeft s
  | .movBackward => Sys2Proof.Machine.execMovBackward s
  | .movRight => Sys2Proof.Machine.execMovRight s
  | .reservedMov47 sel => Sys2Proof.Machine.execReservedMov47 sel s
  | .take low => Sys2Proof.Machine.execTake low s
  | .reset low => Sys2Proof.Machine.execReset low s

end Sys2Proof.Machine
end

