-- ==== Sys2Proof/Machine/Step.lean ====
section
/-! DEFINITION. One step of the machine: what the host presents next is accepted and executed, whole (R10, R48). -/

namespace Sys2Proof.Machine

/-- One step. With nothing presented the block holds its state and nothing is handed back (R141, R163). -/
def step (s : State) : Host.Outcome State Fault Refusal :=
  match s.accept with
  | .idle t => .next t
  | .word op t => exec (decode op) t
  | .pinReset t => .next t
  | .stop r => .fault r

/-- `s` with the operation word whose bits are `w` presented next (log 1). A number that is no operation word cannot
be presented, so it changes nothing (log 7). -/
def State.withFetchWord (s : State) (_nbits w : Nat) : State :=
  match OpWord.ofRaw w with
  | .ok op => s.present op
  | .error _ => s

end Sys2Proof.Machine
end

