-- ==== Sys2Proof/Machine/Assembler.lean ====
section
/-! DEFINITION. The assembler's textual syntax (R75): one mnemonic per line, no operands, an optional comment after
`;`, case-insensitive; `.word 0x15` for a raw word; the pseudo-instruction `SEND.<name>`. It is not part of a step:
the host uses it to write down the words it presents. What R75 leaves open of the text is fixed in log 8 (DESIGN CHOICE). -/

namespace Sys2Proof.Machine

/-- The command's name: the enumeration member's name in upper case (R75). -/
def Command.name : Command → List Char
  | .act .dance => "DANCE".toList
  | .act .music => "MUSIC".toList
  | .act .story => "STORY".toList
  | .act .exercise => "EXERCISE".toList
  | .act .voice => "VOICE".toList
  | .mov .forward => "FORWARD".toList
  | .mov .left => "LEFT".toList
  | .mov .backward => "BACKWARD".toList
  | .mov .right => "RIGHT".toList

/-- The command's mnemonic, `ACT.<name>` or `MOV.<name>` (R75). -/
def Command.mnemonic : Command → List Char
  | .act a => "ACT.".toList ++ Command.name (.act a)
  | .mov d => "MOV.".toList ++ Command.name (.mov d)

/-- The canonical spelling of `NOP` (R64, R75). -/
def nopWord : OpWord := 0x00

/-- The canonical spelling of `TAKE` (R64, R75). -/
def takeWord : OpWord := 0x20

/-- The canonical spelling of `RESET` (R64, R75). -/
def resetWord : OpWord := 0x30

/-- `SEND.<name>`: the command's word followed by `TAKE` (R75). -/
def Command.sendWords (c : Command) : List OpWord := [c.word, takeWord]

/-- Every line of text that is a mnemonic or the pseudo-instruction, with the words it stands for (R75). -/
def asmTable : List (List Char × List OpWord) :=
  [("NOP".toList, [nopWord]), ("TAKE".toList, [takeWord]), ("RESET".toList, [resetWord])] ++
  Command.all.map (fun c => (c.mnemonic, [c.word])) ++
  Command.all.map (fun c => ("SEND.".toList ++ c.name, c.sendWords))

/-- Why a line is no line of the syntax. -/
inductive AsmError where
  /-- Raised by `assembleLine` for text that is neither blank, a mnemonic, `SEND.<name>` nor `.word 0x<hex>`.
  Safe: no word is produced. -/
  | unknownLine (text : List Char)
  /-- Raised by `assembleLine` for `.word` with a number that is no operation word (log 7). Safe: no word is
  produced. -/
  | notAWord (e : DecodeError)
deriving DecidableEq, Repr

/-- The text without blanks at either end. -/
def trimBlanks (cs : List Char) : List Char :=
  ((cs.dropWhile Char.isWhitespace).reverse.dropWhile Char.isWhitespace).reverse

/-- The part of a line the assembler reads: no comment, no blanks at the ends, upper case (R75). -/
def normalLine (cs : List Char) : List Char :=
  (trimBlanks (cs.takeWhile (fun c => c != ';'))).map Char.toUpper

/-- The value of an upper-case hexadecimal digit. -/
def hexDigit (c : Char) : Option Nat :=
  if '0'.toNat ≤ c.toNat ∧ c.toNat ≤ '9'.toNat then some (c.toNat - '0'.toNat)
  else if 'A'.toNat ≤ c.toNat ∧ c.toNat ≤ 'F'.toNat then some (c.toNat - 'A'.toNat + 10)
  else none

/-- The number a run of hexadecimal digits spells after the value `acc` already read. -/
def hexFrom (acc : Nat) : List Char → Option Nat
  | [] => some acc
  | c :: cs =>
    match hexDigit c with
    | some d => hexFrom (16 * acc + d) cs
    | none => none

/-- The number of a normalised `.word 0x<hex>` line. -/
def rawNumber (cs : List Char) : Option Nat :=
  match cs with
  | '.' :: 'W' :: 'O' :: 'R' :: 'D' :: c :: rest =>
    if c.isWhitespace then
      match rest.dropWhile Char.isWhitespace with
      | '0' :: 'X' :: d :: ds => hexFrom 0 (d :: ds)
      | _ => none
    else none
  | _ => none

/-- The words a normalised line stands for (R75). -/
def wordsOfLine (cs : List Char) : Except AsmError (List OpWord) :=
  if cs.isEmpty then .ok []
  else
    match asmTable.lookup cs with
    | some ops => .ok ops
    | none =>
      match rawNumber cs with
      | none => .error (.unknownLine cs)
      | some n =>
        match OpWord.ofRaw n with
        | .ok op => .ok [op]
        | .error e => .error (.notAWord e)

/-- The words one line of text stands for (R75). -/
def assembleLine (cs : List Char) : Except AsmError (List OpWord) := wordsOfLine (normalLine cs)

/-- The words of a program given line by line; the first line that is none of the syntax ends it (R75). -/
def assemble : List (List Char) → Except AsmError (List OpWord)
  | [] => .ok []
  | l :: ls =>
    match assembleLine l with
    | .error e => .error e
    | .ok ops =>
      match assemble ls with
      | .error e => .error e
      | .ok rest => .ok (ops ++ rest)

end Sys2Proof.Machine
end

