-- ==== Sys2Proof/Safety.lean ====
section
/-! DEFINITION. The terms claims are stated in: the invariants of R30, what a run may hand over (R74), what can be
observed of the frame buffer (R163), what the history of words says of the flags (R23, R24), and the operation-word
table of R64 written a second time, with the frames as the literal bytes of `41_action_frames.md` section 3 and
`42_movement_frames.md` section 3, as a step of its own to compare the machine with. -/

namespace Sys2Proof.Machine

/-- The invariants I-a to I-g of the block (R30). -/
structure Block.Inv (b : Block) : Prop where
  /-- I-a. -/
  len_values : b.len = 0 ∨ b.len = 6 ∨ b.len = 10
  /-- I-b. -/
  tail_zero : ∀ i : Fin 10, b.len.toNat ≤ i.val → b.fb[i] = 0
  /-- I-c. -/
  action_held : b.len = 6 → ∃! a : ActionKind, b.fb.toList.take 6 = encodeAction a
  /-- I-d. -/
  movement_held : b.len = 10 → ∃! d : DirectionKind, b.fb.toList = encodeMovement d
  /-- I-e. -/
  valid_len : b.valid = true → b.len = 6 ∨ b.len = 10
  /-- I-f. -/
  err_empty : b.err = true → b.valid = false ∧ b.len = 0 ∧ ∀ i : Fin 10, b.fb[i] = 0
  /-- I-g. -/
  empty_invalid : b.len = 0 → b.valid = false

/-- Every frame handed over so far is one of the nine legal frames (R74). -/
def State.OnlyLegalFrames (s : State) : Prop := ∀ f, StepOutcome.frame f ∈ s.outcomes → f ∈ legalFrames

/-- The run of the words `ops` from `s` (R163): one step for each. -/
def State.runWords (ops : List OpWord) (s : State) : Host.Outcome State Fault Refusal :=
  Host.Core.run Sys2Proof.core ops.length (s.presentAll ops)

/-- Two blocks the host cannot tell apart: the same outputs, and the same frame where one waits (R21, R163). -/
def Block.SameToHost (b c : Block) : Prop :=
  b.outputs = c.outputs ∧ (b.valid = true → b.heldFrame = c.heldFrame)

/-- Two results that are the same to the host: next states with the same observation, or the same stop. -/
def SameObservation : Host.Outcome State Fault Refusal → Host.Outcome State Fault Refusal → Prop
  | .next s, .next t => s.observation = t.observation
  | .fault r, .fault q => r = q
  | .refused r, .refused q => r = q
  | _, _ => False

/-- The command whose frame waits after the words `ops`, if `c` waited before: the last legal ENCODE word's, unless a
reserved ENCODE word, a `TAKE` or a `RESET` came after it (R23, R48). -/
def waitingAfter (c : Option Command) : List OpWord → Option Command
  | [] => c
  | op :: ops =>
    waitingAfter
      (match op.extractLsb' 4 2 with
        | 0b00#2 => c
        | 0b01#2 => Command.ofWord op
        | _ => none) ops

/-- What the words `ops` leave `ERR` at, from `e`: whether the most recent ENCODE word was reserved, `RESET` forgetting
it (R24). -/
def errAfter (e : Bool) : List OpWord → Bool
  | [] => e
  | op :: ops =>
    errAfter
      (match op.extractLsb' 4 2 with
        | 0b01#2 => OpWord.isReserved op
        | 0b11#2 => false
        | _ => e) ops

/-- How many frames a list of outcomes hands over. -/
def frameCount (os : List StepOutcome) : Nat :=
  os.countP fun o => match o with
    | .frame _ => true
    | _ => false

/-- How many words of a list are legal ENCODE words. -/
def legalCount (ops : List OpWord) : Nat := ops.countP fun op => (Command.ofWord op).isSome

/-! ### The table of R64 as a step of its own -/

/-- A frame of literal bytes built into the block (R101 to R105, R111 to R114). -/
def tableBuilt (fb : Vector Byte 10) (len : Len) : Block × StepOutcome := (⟨fb, len, true, false⟩, .ok)

/-- The step of each of the 64 words, row by row as R64 lists them, with the bytes each rule writes. -/
def tableStep (op : OpWord) (b : Block) : Block × StepOutcome :=
  match op.toNat with
  | 0x10 => tableBuilt #v[0xB3, 0x02, 0x02, 0x00, 0x02, 0xAA, 0x00, 0x00, 0x00, 0x00] 6
  | 0x11 => tableBuilt #v[0xB3, 0x02, 0x03, 0x00, 0x03, 0xAA, 0x00, 0x00, 0x00, 0x00] 6
  | 0x12 => tableBuilt #v[0xB3, 0x02, 0x01, 0x00, 0x01, 0xAA, 0x00, 0x00, 0x00, 0x00] 6
  | 0x13 => tableBuilt #v[0xB3, 0x02, 0x00, 0x00, 0x00, 0xAA, 0x00, 0x00, 0x00, 0x00] 6
  | 0x14 => tableBuilt #v[0xB3, 0x02, 0x04, 0x00, 0x04, 0xAA, 0x00, 0x00, 0x00, 0x00] 6
  | 0x18 => tableBuilt #v[0xB6, 0x06, 0x00, 0x05, 0x03, 0x00, 0x00, 0x00, 0x00, 0x08] 10
  | 0x19 => tableBuilt #v[0xB6, 0x06, 0x00, 0x05, 0x05, 0x00, 0x00, 0x00, 0x00, 0x0A] 10
  | 0x1A => tableBuilt #v[0xB6, 0x06, 0x00, 0x05, 0x07, 0x00, 0x00, 0x00, 0x00, 0x0C] 10
  | 0x1B => tableBuilt #v[0xB6, 0x06, 0x00, 0x05, 0x01, 0x00, 0x00, 0x00, 0x00, 0x06] 10
  | n =>
    if n ≤ 0x0F then (b, .ok)
    else if n ≤ 0x1F then (⟨#v[0, 0, 0, 0, 0, 0, 0, 0, 0, 0], 0, false, true⟩, .unknownCommand)
    else if n ≤ 0x2F then
      if b.valid = true then ({ b with valid := false }, .frame (b.fb.toList.take b.len.toNat)) else (b, .noFrame)
    else (⟨#v[0, 0, 0, 0, 0, 0, 0, 0, 0, 0], 0, false, false⟩, .ok)

/-- A run of the table's steps: the block it leaves and its outcomes in order (R163). -/
def tableRun : List OpWord → Block → Block × List StepOutcome
  | [], b => (b, [])
  | op :: ops, b =>
    let r := tableStep op b
    let q := tableRun ops r.1
    (q.1, r.2 :: q.2)

end Sys2Proof.Machine
end

