-- ==== Sys2Proof/Certificates/Slice0/Obligations.lean ====
section
/-! DEFINITION. The statements for the provers, from the spec's numbered rules. In all of them the word or event the
host presents next is the head of `State.host` and the outcome of a step is the last entry of `State.outcomes`: that
is how the model writes down R10's `Step : State x OpWord -> State x Outcome` (logs 1 and 2). -/

open Sys2Proof Sys2Proof.Machine

/-! ### Reset -/

/-- R31: after reset every item is zero; the `RESET` word and a pin reset leave that same state. -/
def Obligations.ResetLeavesEveryItemZero : Prop :=
  (∀ i : Fin 10, State.reset.block.fb[i] = 0) ∧ State.reset.block.len = 0 ∧
  State.reset.block.valid = false ∧ State.reset.block.err = false ∧
  (∀ low s, ∃ t, exec (.reset low) s = .next t ∧ t.block = State.reset.block) ∧
  ∀ s rest, s.host = .pinReset :: rest → ∃ t, step s = .next t ∧ t.block = State.reset.block

/-- R151: what the host sees straight after reset, and that nothing can be sent before a command is encoded. -/
def Obligations.StraightAfterReset : Prop :=
  State.reset.block.outputs = ⟨0, false, false⟩ ∧
  (∀ low, exec (.take low) State.reset = .next { State.reset with outcomes := [.noFrame] }) ∧
  (∀ low, exec (.nop low) State.reset = .next { State.reset with outcomes := [.ok] }) ∧
  (∀ c : Command, ∀ s, ∃ t u, exec (decode c.word) State.reset = .next t ∧ exec (decode c.word) s = .next u ∧
    t.block = u.block ∧ t.block.valid = true ∧ t.block.heldFrame = encodeCommand c ∧ t.outcomes = [.ok]) ∧
  ∀ ops : List OpWord, (∀ op ∈ ops, Command.ofWord op = none) →
    ∃ t, State.reset.runWords ops = .next t ∧ ∀ f, StepOutcome.frame f ∉ t.outcomes

/-! ### The operation word -/

/-- R64: the complete map of the 64 operation words, in the table's ranges. -/
def Obligations.OperationWordMap : Prop :=
  ∀ op : OpWord, decode op =
    if op.toNat ≤ 0x0F then .nop (BitVec.ofNat 4 op.toNat)
    else if op.toNat = 0x10 then .actDance
    else if op.toNat = 0x11 then .actMusic
    else if op.toNat = 0x12 then .actStory
    else if op.toNat = 0x13 then .actExercise
    else if op.toNat = 0x14 then .actVoice
    else if op.toNat = 0x15 then .reservedAct5
    else if op.toNat ≤ 0x17 then .reservedAct67 (BitVec.ofNat 3 op.toNat)
    else if op.toNat = 0x18 then .movForward
    else if op.toNat = 0x19 then .movLeft
    else if op.toNat = 0x1A then .movBackward
    else if op.toNat = 0x1B then .movRight
    else if op.toNat ≤ 0x1F then .reservedMov47 (BitVec.ofNat 3 op.toNat)
    else if op.toNat ≤ 0x2F then .take (BitVec.ofNat 4 op.toNat)
    else .reset (BitVec.ofNat 4 op.toNat)

/-- The mask-and-pattern rows of the table partition the 64 words, and the decoder reads the row that holds the word. -/
def Obligations.TableRowsPartitionWords : Prop :=
  ∀ op : OpWord, (opTable.filter fun r => r.holds op).map OpRow.label = [(decode op).mnemonic]

/-- Decoding and encoding are inverse to each other, and the well-formed terms are exactly those a word stands for. -/
def Obligations.DecodeEncodeAgree : Prop :=
  (∀ i : Instr, i.wellFormed = true → decode (encode i) = i) ∧
  (∀ op : OpWord, encode (decode op) = op) ∧
  ∀ i : Instr, i.wellFormed = true ↔ ∃ op, decode op = i

/-- Words written out bit by bit from R64, one or more for each family. -/
def Obligations.SpecWordsDecode : Prop :=
  decode 0b000000 = .nop 0 ∧ decode 0b010000 = .actDance ∧ decode 0b010100 = .actVoice ∧
  decode 0b010101 = .reservedAct5 ∧ decode 0b011000 = .movForward ∧ decode 0b011011 = .movRight ∧
  decode 0b011100 = .reservedMov47 4 ∧ decode 0b100101 = .take 5 ∧ decode 0b111111 = .reset 15 ∧
  decodeTableWord 8 0x13 = some .actExercise ∧ decodeTableWord 8 0x40 = none

/-- R72: under `OPC` 00, 10 and 11 the four low bits are ignored: a word acts as its canonical spelling. -/
def Obligations.LowBitsIgnored : Prop :=
  ∀ op : OpWord, op.extractLsb' 4 2 ≠ 0b01#2 → op.isReserved = false ∧
    ∀ s, exec (decode op) s = exec (decode (op &&& 0b110000#6)) s

/-- R63: the selector is the ordinal of the kind's member in declared order, not its protocol code. -/
def Obligations.SelectorIsOrdinal : Prop :=
  (∀ s : BitVec 3, Command.ofWord (0b01#2 ++ 0b0#1 ++ s : BitVec 6) =
    ([ActionKind.dance, .music, .story, .exercise, .voice][s.toNat]?).map Command.act) ∧
  (∀ s : BitVec 3, Command.ofWord (0b01#2 ++ 0b1#1 ++ s : BitVec 6) =
    ([DirectionKind.forward, .left, .backward, .right][s.toNat]?).map Command.mov) ∧
  [ActionKind.dance, .music, .story, .exercise, .voice].map (fun a => (actOpcode a).toNat) = [2, 3, 1, 0, 4] ∧
  [DirectionKind.forward, .left, .backward, .right].map (fun d => (dirCode d).toNat) = [3, 5, 7, 1]

/-- R27: the two code tables, both injective. -/
def Obligations.CodeTables : Prop :=
  ActionKind.all.map opcodeByte = [0x02, 0x03, 0x01, 0x00, 0x04] ∧
  DirectionKind.all.map directionByte = [0x03, 0x05, 0x07, 0x01] ∧
  (∀ a b, opcodeByte a = opcodeByte b → a = b) ∧ ∀ d e, directionByte d = directionByte e → d = e

/-- The closed set: nine different commands with nine different words, and no other word spells one. -/
def Obligations.NineCommandsClosed : Prop :=
  Command.all.length = 9 ∧ Command.all.Nodup ∧ (∀ c : Command, c ∈ Command.all) ∧
  (∀ op : OpWord, ∀ c, Command.ofWord op = some c ↔ op = c.word) ∧
  legalFrames.length = 9 ∧ legalFrames.Nodup

/-! ### The checksum -/

/-- R90, R91: the checksum is the true sum modulo 256, and an 8-bit adder that drops its carry computes it. -/
def Obligations.ChecksumIsRunningSum : Prop :=
  ∀ s : List Byte, (checksum8 s).toNat = (s.map BitVec.toNat).sum % 256 ∧
    s.foldl (fun acc b => acc + b) 0 = checksum8 s

/-- R93: the laws of the checksum. -/
def Obligations.ChecksumLaws : Prop :=
  checksum8 [] = 0 ∧ (∀ b, checksum8 [b] = b) ∧
  (∀ s t, checksum8 (s ++ t) = checksum8 s + checksum8 t) ∧
  (∀ s t : List Byte, s.Perm t → checksum8 s = checksum8 t) ∧
  (∀ s t, checksum8 (s ++ 0 :: t) = checksum8 (s ++ t)) ∧
  (∀ d, checksum8 (spanOf (2, 7) (encodeMovement d)) = checksum8 (spanOf movCkSpan (encodeMovement d))) ∧
  (∀ s, (checksum8 s).toNat ≤ 255) ∧
  (∀ a, trueSum (spanOf actCkSpan (encodeAction a)) ≤ 4) ∧
  (∀ d, trueSum (spanOf movCkSpan (encodeMovement d)) ≤ 12) ∧
  ∀ f ∈ legalFrames, ∀ span ∈ [actCkSpan, movCkSpan], (checksum8 (spanOf span f)).toNat = trueSum (spanOf span f)

/-- R69: the spans are constants of the frame kind: indices 2 and 3 into index 4; indices 2 to 7 into index 9. -/
def Obligations.ChecksumSpans : Prop :=
  (∀ a, ∃ b2 b3, (encodeAction a)[2]? = some b2 ∧ (encodeAction a)[3]? = some b3 ∧
    spanOf actCkSpan (encodeAction a) = [b2, b3] ∧ (encodeAction a)[actCkIdx]? = some (b2 + b3)) ∧
  ∀ d, ∃ b2 b3 b4 b5 b6 b7, (encodeMovement d)[2]? = some b2 ∧ (encodeMovement d)[3]? = some b3 ∧
    (encodeMovement d)[4]? = some b4 ∧ (encodeMovement d)[5]? = some b5 ∧ (encodeMovement d)[6]? = some b6 ∧
    (encodeMovement d)[7]? = some b7 ∧ spanOf movCkSpan (encodeMovement d) = [b2, b3, b4, b5, b6, b7] ∧
    (encodeMovement d)[movCkIdx]? = some (b2 + b3 + b4 + b5 + b6 + b7)

/-! ### Action and movement frames -/

/-- R100, R65: `EncodeAction` and the common step of the five `ACT` words. -/
def Obligations.EncodeActionStep : Prop :=
  (∀ a, encodeAction a =
    [0xB3, 0x02, (actOpcode a).zeroExtend 8, 0x00, checksum8 [(actOpcode a).zeroExtend 8, 0x00], 0xAA]) ∧
  (∀ a, (encodeAction a).length = 6 ∧ (encodeAction a)[4]? = (encodeAction a)[2]?) ∧
  (∀ a b, encodeAction a = encodeAction b → a = b) ∧
  ∀ a s, ∃ t, exec (decode (Command.act a).word) s = .next t ∧
    t.block.fb.toList = encodeAction a ++ [0x00, 0x00, 0x00, 0x00] ∧ t.block.len = 6 ∧ t.block.valid = true ∧
    t.block.err = false ∧ t.host = s.host ∧ t.outcomes = s.outcomes ++ [.ok]

/-- R110, R66: `EncodeMovement` and the common step of the four `MOV` words. -/
def Obligations.EncodeMovementStep : Prop :=
  (∀ d, encodeMovement d =
    [0xB6, 0x06, 0x00, 0x05, (dirCode d).zeroExtend 8, 0x00, 0x00, 0x00, 0x00,
      checksum8 [0x00, 0x05, (dirCode d).zeroExtend 8, 0x00, 0x00, 0x00]]) ∧
  (∀ d, (encodeMovement d).length = 10 ∧ (encodeMovement d)[9]? = some (0x05 + (dirCode d).zeroExtend 8)) ∧
  DirectionKind.all.map (fun d => (encodeMovement d)[9]?) = [some 0x08, some 0x0A, some 0x0C, some 0x06] ∧
  (∀ d e, encodeMovement d = encodeMovement e → d = e) ∧
  (∀ d e, ∀ i : Nat, i ≠ 4 → i ≠ 9 → (encodeMovement d)[i]? = (encodeMovement e)[i]?) ∧
  ∀ d s, ∃ t, exec (decode (Command.mov d).word) s = .next t ∧
    t.block.fb.toList = encodeMovement d ∧ t.block.len = 10 ∧ t.block.valid = true ∧
    t.block.err = false ∧ t.host = s.host ∧ t.outcomes = s.outcomes ++ [.ok]

/-- R101: `ACT.DANCE`. -/
def Obligations.ActDance : Prop :=
  decode 0b010000 = .actDance ∧ encodeAction .dance = [0xB3, 0x02, 0x02, 0x00, 0x02, 0xAA] ∧
  ∀ s, exec .actDance s = .next
    ⟨⟨#v[0xB3, 0x02, 0x02, 0x00, 0x02, 0xAA, 0x00, 0x00, 0x00, 0x00], 6, true, false⟩, s.host, s.outcomes ++ [.ok]⟩

/-- R102: `ACT.MUSIC`. -/
def Obligations.ActMusic : Prop :=
  decode 0b010001 = .actMusic ∧ encodeAction .music = [0xB3, 0x02, 0x03, 0x00, 0x03, 0xAA] ∧
  ∀ s, exec .actMusic s = .next
    ⟨⟨#v[0xB3, 0x02, 0x03, 0x00, 0x03, 0xAA, 0x00, 0x00, 0x00, 0x00], 6, true, false⟩, s.host, s.outcomes ++ [.ok]⟩

/-- R103: `ACT.STORY`. -/
def Obligations.ActStory : Prop :=
  decode 0b010010 = .actStory ∧ encodeAction .story = [0xB3, 0x02, 0x01, 0x00, 0x01, 0xAA] ∧
  ∀ s, exec .actStory s = .next
    ⟨⟨#v[0xB3, 0x02, 0x01, 0x00, 0x01, 0xAA, 0x00, 0x00, 0x00, 0x00], 6, true, false⟩, s.host, s.outcomes ++ [.ok]⟩

/-- R104: `ACT.EXERCISE`, whose legal frame has a zero checksum. -/
def Obligations.ActExercise : Prop :=
  decode 0b010011 = .actExercise ∧ encodeAction .exercise = [0xB3, 0x02, 0x00, 0x00, 0x00, 0xAA] ∧
  ∀ s, exec .actExercise s = .next
    ⟨⟨#v[0xB3, 0x02, 0x00, 0x00, 0x00, 0xAA, 0x00, 0x00, 0x00, 0x00], 6, true, false⟩, s.host, s.outcomes ++ [.ok]⟩

/-- R105: `ACT.VOICE`, the last legal selector of `K = 0`. -/
def Obligations.ActVoice : Prop :=
  decode 0b010100 = .actVoice ∧ OpWord.isReserved 0x15 = true ∧
  encodeAction .voice = [0xB3, 0x02, 0x04, 0x00, 0x04, 0xAA] ∧
  ∀ s, exec .actVoice s = .next
    ⟨⟨#v[0xB3, 0x02, 0x04, 0x00, 0x04, 0xAA, 0x00, 0x00, 0x00, 0x00], 6, true, false⟩, s.host, s.outcomes ++ [.ok]⟩

/-- R111: `MOV.FORWARD`. -/
def Obligations.MovForward : Prop :=
  decode 0b011000 = .movForward ∧
  encodeMovement .forward = [0xB6, 0x06, 0x00, 0x05, 0x03, 0x00, 0x00, 0x00, 0x00, 0x08] ∧
  ∀ s, exec .movForward s = .next
    ⟨⟨#v[0xB6, 0x06, 0x00, 0x05, 0x03, 0x00, 0x00, 0x00, 0x00, 0x08], 10, true, false⟩, s.host, s.outcomes ++ [.ok]⟩

/-- R112: `MOV.LEFT`. -/
def Obligations.MovLeft : Prop :=
  decode 0b011001 = .movLeft ∧
  encodeMovement .left = [0xB6, 0x06, 0x00, 0x05, 0x05, 0x00, 0x00, 0x00, 0x00, 0x0A] ∧
  ∀ s, exec .movLeft s = .next
    ⟨⟨#v[0xB6, 0x06, 0x00, 0x05, 0x05, 0x00, 0x00, 0x00, 0x00, 0x0A], 10, true, false⟩, s.host, s.outcomes ++ [.ok]⟩

/-- R113: `MOV.BACKWARD`, whose checksum is the largest the block produces. -/
def Obligations.MovBackward : Prop :=
  decode 0b011010 = .movBackward ∧
  encodeMovement .backward = [0xB6, 0x06, 0x00, 0x05, 0x07, 0x00, 0x00, 0x00, 0x00, 0x0C] ∧
  (∀ c : Command, ∃ ck, (encodeCommand c)[c.checksumIdx]? = some ck ∧ ck ≤ 0x0C) ∧
  ∀ s, exec .movBackward s = .next
    ⟨⟨#v[0xB6, 0x06, 0x00, 0x05, 0x07, 0x00, 0x00, 0x00, 0x00, 0x0C], 10, true, false⟩, s.host, s.outcomes ++ [.ok]⟩

/-- R114: `MOV.RIGHT`, the last legal selector of `K = 1`. -/
def Obligations.MovRight : Prop :=
  decode 0b011011 = .movRight ∧ OpWord.isReserved 0x1C = true ∧
  encodeMovement .right = [0xB6, 0x06, 0x00, 0x05, 0x01, 0x00, 0x00, 0x00, 0x00, 0x06] ∧
  ∀ s, exec .movRight s = .next
    ⟨⟨#v[0xB6, 0x06, 0x00, 0x05, 0x01, 0x00, 0x00, 0x00, 0x00, 0x06], 10, true, false⟩, s.host, s.outcomes ++ [.ok]⟩

/-! ### NOP, TAKE, RESET, reserved words -/

/-- R120: `NOP`, all sixteen spellings, changes nothing. -/
def Obligations.NopChangesNothing : Prop :=
  (∀ op : OpWord, op.toNat ≤ 0x0F ↔ ∃ low, decode op = .nop low) ∧
  ∀ low s, exec (.nop low) s = .next ⟨s.block, s.host, s.outcomes ++ [.ok]⟩

/-- R121: `TAKE`, all sixteen spellings: hands the waiting frame over once, whole and in index order, or answers
`NoFrame` and changes nothing. -/
def Obligations.TakeHandsOver : Prop :=
  (∀ op : OpWord, 0x20 ≤ op.toNat ∧ op.toNat ≤ 0x2F ↔ ∃ low, decode op = .take low) ∧
  (∀ low s, s.block.valid = true →
    exec (.take low) s = .next ⟨⟨s.block.fb, s.block.len, false, s.block.err⟩, s.host,
      s.outcomes ++ [.frame ((List.range s.block.len.toNat).filterMap fun i => s.block.fb[i]?)]⟩) ∧
  (∀ low s, s.block.valid = false →
    exec (.take low) s = .next ⟨s.block, s.host, s.outcomes ++ [.noFrame]⟩) ∧
  ∀ b : Block, b.Inv → b.valid = true →
    (List.range b.len.toNat).filterMap (fun i => b.fb[i]?) ∈ legalFrames

/-- R122: `RESET`, all sixteen spellings, leaves every item zero whatever the state was. -/
def Obligations.ResetClearsBlock : Prop :=
  (∀ op : OpWord, 0x30 ≤ op.toNat ↔ ∃ low, decode op = .reset low) ∧
  ∀ low s, exec (.reset low) s = .next
    ⟨⟨#v[0x00, 0x00, 0x00, 0x00, 0x00, 0x00, 0x00, 0x00, 0x00, 0x00], 0, false, false⟩, s.host, s.outcomes ++ [.ok]⟩

/-- R123: the seven reserved words build nothing, discard what waits, and record the error. -/
def Obligations.ReservedBuildsNothing : Prop :=
  (∀ op : OpWord, op.toNat ∈ [0x15, 0x16, 0x17, 0x1C, 0x1D, 0x1E, 0x1F] ↔
    decode op = .reservedAct5 ∨ (∃ sel, decode op = .reservedAct67 sel) ∨ ∃ sel, decode op = .reservedMov47 sel) ∧
  ∀ s : State,
    let t : State :=
      ⟨⟨#v[0x00, 0x00, 0x00, 0x00, 0x00, 0x00, 0x00, 0x00, 0x00, 0x00], 0, false, true⟩, s.host,
        s.outcomes ++ [.unknownCommand]⟩
    exec .reservedAct5 s = .next t ∧ (∀ sel, exec (.reservedAct67 sel) s = .next t) ∧
    (∀ sel, exec (.reservedMov47 sel) s = .next t) ∧ { t.block with err := false } = State.reset.block ∧
    (∀ low, exec (.take low) t = .next { t with outcomes := t.outcomes ++ [.noFrame] }) ∧
    (∀ low, exec (.nop low) t = .next { t with outcomes := t.outcomes ++ [.ok] }) ∧
    ∀ c : Command, ∃ u v, exec (decode c.word) t = .next u ∧ exec (decode c.word) s = .next v ∧
      u.block = v.block ∧ u.block.err = false ∧ u.block.valid = true

/-! ### The state, over every operation -/

/-- R29: after any ENCODE word the whole state of the block, the outcome, and what a `TAKE` then hands over are a
function of the word alone. -/
def Obligations.EncodeWordAloneDecides : Prop :=
  ∀ op : OpWord, op.extractLsb' 4 2 = 0b01#2 → ∃ b o b' o', ∀ s,
    exec (decode op) s = .next ⟨b, s.host, s.outcomes ++ [o]⟩ ∧
    ∀ low, exec (.take low) ⟨b, s.host, s.outcomes ++ [o]⟩ = .next ⟨b', s.host, s.outcomes ++ [o] ++ [o']⟩

/-- The frame of every instruction, from the table of what each operation writes (`10_state.md` section 10). -/
def Obligations.WritesAsTabled : Prop :=
  ∀ i s t, exec i s = .next t → t.host = s.host ∧ (∃ o, t.outcomes = s.outcomes ++ [o]) ∧
    match i with
    | .nop _ => t.block = s.block
    | .take _ =>
      t.block.fb = s.block.fb ∧ t.block.len = s.block.len ∧ t.block.err = s.block.err ∧ t.block.valid = false
    | .actDance | .actMusic | .actStory | .actExercise | .actVoice =>
      t.block.len = 6 ∧ t.block.valid = true ∧ t.block.err = false ∧ ∀ j : Fin 10, 6 ≤ j.val → t.block.fb[j] = 0
    | .movForward | .movLeft | .movBackward | .movRight =>
      t.block.len = 10 ∧ t.block.valid = true ∧ t.block.err = false
    | .reservedAct5 | .reservedAct67 _ | .reservedMov47 _ =>
      t.block.len = 0 ∧ t.block.valid = false ∧ t.block.err = true ∧ ∀ j : Fin 10, t.block.fb[j] = 0
    | .reset _ =>
      t.block.len = 0 ∧ t.block.valid = false ∧ t.block.err = false ∧ ∀ j : Fin 10, t.block.fb[j] = 0

/-- Which items each operation reads, from the same table. Every operation but `TAKE` and `NOP` leaves a block and
gives an outcome that are the same from any state; `TAKE` decides on `VALID` alone, and hands over what `LEN` and the
cells below it hold. -/
def Obligations.ReadsAsTabled : Prop :=
  (∀ i, (∀ low, i ≠ .nop low) → (∀ low, i ≠ .take low) →
    ∃ b o, ∀ s, exec i s = .next ⟨b, s.host, s.outcomes ++ [o]⟩) ∧
  (∀ low, ∃ o, ∀ s, exec (.nop low) s = .next ⟨s.block, s.host, s.outcomes ++ [o]⟩) ∧
  ∀ low s u t v, exec (.take low) s = .next t → exec (.take low) u = .next v →
    s.block.valid = u.block.valid → s.outcomes = u.outcomes →
    (s.block.valid = true → s.block.len = u.block.len ∧
      ∀ j : Fin 10, j.val < s.block.len.toNat → s.block.fb[j] = u.block.fb[j]) →
    t.outcomes = v.outcomes ∧ t.block.valid = v.block.valid

/-- The reset state satisfies the invariants. -/
def Obligations.ResetMeetsInvariant : Prop := State.reset.block.Inv ∧ State.reset.OnlyLegalFrames

/-- Every step keeps the invariants, from every state that meets them, whatever the host does. -/
def Obligations.StepKeepsInvariant : Prop :=
  ∀ s t, s.block.Inv → s.OnlyLegalFrames → step s = .next t → t.block.Inv ∧ t.OnlyLegalFrames

/-- R30: the invariants hold in the reset state and after every step, whatever sequence of words is presented. -/
def Obligations.EveryRunMeetsInvariant : Prop :=
  State.reset.block.Inv ∧
  ∀ (ops : List OpWord) (n : Nat) (t : State), n ≤ ops.length →
    Host.Core.run Sys2Proof.core n (State.reset.presentAll ops) = .next t → t.block.Inv

/-- R74: the byte sequences the block can hand over are exactly the nine legal frames. -/
def Obligations.ExactlyNineFrames : Prop :=
  (∀ f, (∃ ops t, State.reset.runWords ops = .next t ∧ StepOutcome.frame f ∈ t.outcomes) ↔ f ∈ legalFrames) ∧
  ∀ f ∈ legalFrames, f ≠ [] ∧
    ((f.length = 6 ∧ (∃ b, f[2]? = some b ∧ b ≤ 0x04) ∧ f[4]? = some (checksum8 (spanOf actCkSpan f))) ∨
     (f.length = 10 ∧ (∃ b, f[4]? = some b ∧ b ∈ [0x01, 0x03, 0x05, 0x07]) ∧
       f[9]? = some (checksum8 (spanOf movCkSpan f))))

/-- R25: `LEN` after every operation word, and that it holds 0, 6 or 10 only. -/
def Obligations.LenWrites : Prop :=
  State.reset.block.len = 0 ∧
  (∀ op s, ∃ t, exec (decode op) s = .next t ∧ t.block.len =
    match op.extractLsb' 4 2 with
    | 0b01#2 =>
      (match Command.ofWord op with
        | some (.act _) => 6
        | some (.mov _) => 10
        | none => 0)
    | 0b11#2 => 0
    | _ => s.block.len) ∧
  ∀ ops t, State.reset.runWords ops = .next t → t.block.len = 0 ∨ t.block.len = 6 ∨ t.block.len = 10

/-- R24: `ERR` after any words says whether the most recent ENCODE word was reserved, unless a `RESET` came after. -/
def Obligations.ErrRecordsLastEncode : Prop :=
  State.reset.block.err = false ∧
  ∀ (ops : List OpWord) (s : State), ∃ t, s.runWords ops = .next t ∧ t.block.err = errAfter s.block.err ops

/-- R23: what each word leaves `VALID` at, from any state; and after any words from reset `VALID` says whether a built
frame waits, which the buffer then holds whole. -/
def Obligations.ValidMeansFrameWaits : Prop :=
  State.reset.block.valid = false ∧
  (∀ op s, ∃ t, exec (decode op) s = .next t ∧ t.block.valid =
    match op.extractLsb' 4 2 with
    | 0b00#2 => s.block.valid
    | 0b01#2 => (Command.ofWord op).isSome
    | _ => false) ∧
  ∀ ops, ∃ t, State.reset.runWords ops = .next t ∧ t.block.valid = (waitingAfter none ops).isSome ∧
    ∀ c, waitingAfter none ops = some c → t.block.heldFrame = encodeCommand c

/-! ### Steps and runs -/

/-- A step accepts the presented word, takes it from the host's list, and executes the instruction it decodes to. -/
def Obligations.StepRunsDecodedWord : Prop :=
  (∀ s op rest, s.host = .word op :: rest → step s = exec (decode op) { s with host := rest }) ∧
  (∀ s i, i.wellFormed = true → step (s.present (encode i)) = exec i s) ∧
  ∀ s w, w < 64 → step (s.withFetchWord 8 w) = exec (decode (BitVec.ofNat 6 w)) s

/-- With nothing presented the block holds its state and nothing is handed back (the model's reading, log 1). -/
def Obligations.IdleHoldsState : Prop := ∀ s, s.host = [] → step s = .next s

/-- A pin reset leaves the reset state of the block in one step and hands nothing back (the model's reading, log 6). -/
def Obligations.PinResetStep : Prop :=
  ∀ s rest, s.host = .pinReset :: rest → step s = .next ⟨State.reset.block, rest, s.outcomes⟩

/-- Two drivers at once: no step, in the model a fault (log 3); and nothing else stops the machine. -/
def Obligations.OnlyContentionStops : Prop :=
  (∀ s rest, s.host = .contention :: rest → step s = .fault .portContention) ∧
  ∀ s, (∀ rest, s.host ≠ .contention :: rest) → ∃ t, step s = .next t

/-- R162: every operation word is accepted in every state, one step for each, and `RESET` recovers from any state. -/
def Obligations.EveryWordAccepted : Prop :=
  (∀ s op rest, s.host = .word op :: rest → ∃ t o, step s = .next t ∧ t.host = rest ∧
    t.outcomes = s.outcomes ++ [o]) ∧
  (∀ (ops : List OpWord) (s : State), ∃ t, s.runWords ops = .next t ∧ t.host = s.host ∧ t.outcomes.length = s.outcomes.length + ops.length) ∧
  ∀ s low, ∃ t, exec (.reset low) s = .next t ∧ t.block = State.reset.block

/-- R130: which outcome each word ends with, and what a failing step records. -/
def Obligations.OutcomeTable : Prop :=
  ∀ op s, ∃ t o, exec (decode op) s = .next t ∧ t.outcomes = s.outcomes ++ [o] ∧
    (o = .unknownCommand ↔ op.extractLsb' 4 2 = 0b01#2 ∧
      ((op.getLsbD 3 = false ∧ 5 ≤ (op.extractLsb' 0 3).toNat) ∨
        (op.getLsbD 3 = true ∧ 4 ≤ (op.extractLsb' 0 3).toNat))) ∧
    (o = .noFrame ↔ op.extractLsb' 4 2 = 0b10#2 ∧ s.block.valid = false) ∧
    (o = .unknownCommand → t.block.err = true ∧ t.block.valid = false ∧ t.block.len = 0 ∧
      ∀ j : Fin 10, t.block.fb[j] = 0) ∧
    (o = .noFrame → t.block = s.block) ∧
    (o = .unknownCommand ∨ o = .noFrame ∨ o = .ok ∨ ∃ f, o = .frame f)

/-- R131: the nine commands, `NOP` and `RESET` never fail. -/
def Obligations.CommandsNeverFail : Prop :=
  (∀ (c : Command) s, ∃ t, exec (decode c.word) s = .next t ∧ t.outcomes = s.outcomes ++ [.ok]) ∧
  (∀ low s, ∃ t, exec (.nop low) s = .next t ∧ t.outcomes = s.outcomes ++ [.ok]) ∧
  ∀ low s, ∃ t, exec (.reset low) s = .next t ∧ t.outcomes = s.outcomes ++ [.ok]

/-- R47: ENCODE words and `RESET` are idempotent; a built frame is handed over at most once. -/
def Obligations.FrameTakenOnce : Prop :=
  (∀ i s t u, (∀ low, i ≠ .take low) → exec i s = .next t → exec i t = .next u → u.block = t.block) ∧
  (∀ low s t, exec (.take low) s = .next t → t.block.valid = false) ∧
  ∀ (s : State) (op : OpWord) (ops : List OpWord) (op' : OpWord),
    op.extractLsb' 4 2 = 0b10#2 → op'.extractLsb' 4 2 = 0b10#2 → (∀ w ∈ ops, w.extractLsb' 4 2 ≠ 0b01#2) →
    ∃ t u, s.runWords (op :: ops) = .next t ∧ s.runWords (op :: ops ++ [op']) = .next u ∧
      u.outcomes = t.outcomes ++ [.noFrame]

/-- R48: words take effect one at a time in the order presented; a `TAKE` hands over the frame of the latest ENCODE
word before it, if that word was legal and no `TAKE` or `RESET` came between. -/
def Obligations.SequentialEffect : Prop :=
  (∀ (ops ops' : List OpWord) (s : State), ∃ t, s.runWords ops = .next t ∧ s.runWords (ops ++ ops') = t.runWords ops') ∧
  ∀ (c : Command) (before nops : List OpWord) (op : OpWord) (s : State),
    (∀ w ∈ nops, w.extractLsb' 4 2 = 0b00#2) → op.extractLsb' 4 2 = 0b10#2 →
    ∃ t u, s.runWords (before ++ c.word :: nops) = .next t ∧
      s.runWords (before ++ c.word :: nops ++ [op]) = .next u ∧
      u.outcomes = t.outcomes ++ [.frame (encodeCommand c)]

/-- An ENCODE word or a `RESET` presented while a frame waits discards it without a sign: the step and all later ones
are the same as if no frame had waited (R155, the block's side). -/
def Obligations.OverwriteLosesFrame : Prop :=
  ∀ (s u : State) (op : OpWord) (ops : List OpWord),
    op.extractLsb' 4 2 = 0b01#2 ∨ op.extractLsb' 4 2 = 0b11#2 → s.host = u.host → s.outcomes = u.outcomes →
    s.runWords (op :: ops) = u.runWords (op :: ops)

/-- R135: after `NoFrame` nothing needs undoing; after `UnknownCommand` the next legal ENCODE word or `RESET` clears
`ERR`; a second reserved word raises again. -/
def Obligations.FailureRecovery : Prop :=
  (∀ low s, s.block.valid = false → ∃ t, exec (.take low) s = .next t ∧ t.block = s.block) ∧
  ∀ op s, OpWord.isReserved op = true → ∃ t, exec (decode op) s = .next t ∧ t.block.err = true ∧
    (∀ c : Command, ∃ u, exec (decode c.word) t = .next u ∧ u.block.err = false ∧ u.block.valid = true ∧
      u.block.heldFrame = encodeCommand c) ∧
    (∀ low, ∃ u, exec (.reset low) t = .next u ∧ u.block.err = false) ∧
    ∀ op', OpWord.isReserved op' = true → ∃ u, exec (decode op') t = .next u ∧ u.block.err = true ∧
      u.outcomes = t.outcomes ++ [.unknownCommand]

/-- A frame leaves the block only by a `TAKE` that finds `VALID = 1`, and then carries its own checksum (R133, R153). -/
def Obligations.NoFrameBeforeChecksum : Prop :=
  ∀ s t f, s.block.Inv → step s = .next t → t.outcomes = s.outcomes ++ [.frame f] →
    s.block.valid = true ∧ (∃ op rest, s.host = .word op :: rest ∧ op.extractLsb' 4 2 = 0b10#2) ∧
    ((f.length = 6 ∧ f[4]? = some (checksum8 (spanOf actCkSpan f))) ∨
     (f.length = 10 ∧ f[9]? = some (checksum8 (spanOf movCkSpan f))))

/-- No run hands over more frames than it presents legal ENCODE words, and one more if a frame waited at its start. -/
def Obligations.FramesBoundedByEncodes : Prop :=
  ∀ (ops : List OpWord) (s : State), ∃ t os, s.runWords ops = .next t ∧ t.outcomes = s.outcomes ++ os ∧
    frameCount os ≤ legalCount ops + if s.block.valid then 1 else 0

/-- A run of `SEND.<name>` pseudo-instructions, from any state: each hands over the frame of its own name. -/
def Obligations.SendHandsOverEachFrame : Prop :=
  ∀ (cs : List Command) (s : State), ∃ t, s.runWords (cs.flatMap Command.sendWords) = .next t ∧
    t.outcomes = s.outcomes ++ cs.flatMap (fun c => [.ok, .frame (encodeCommand c)]) ∧ t.host = s.host

/-- `FB` is observable only through `TAKE`: two machines that agree on the outputs, on the waiting frame and on what
the host does next cannot be told apart by any run. What the host does next includes events beyond words, whose steps
are the model's choice: `contention` ends both runs in a fault (log 3), `pinReset` appends no outcome (log 6). -/
def Obligations.BufferSeenOnlyThroughTake : Prop :=
  ∀ (n : Nat) (s u : State), s.host = u.host → s.outcomes = u.outcomes → s.block.SameToHost u.block →
    SameObservation (Host.Core.run Sys2Proof.core n s) (Host.Core.run Sys2Proof.core n u)

/-- The machine, over any words from any state, does what the operation-word table with its literal frames does. -/
def Obligations.RunRefinesTable : Prop :=
  ∀ (ops : List OpWord) (s : State), s.runWords ops =
    .next ⟨(tableRun ops s.block).1, s.host, s.outcomes ++ (tableRun ops s.block).2⟩

/-! ### The assembler -/

/-- The twelve mnemonics with their canonical words, the nine pseudo-instructions, and the raw word. -/
def Obligations.AssemblerMnemonics : Prop :=
  assemble (["NOP", "ACT.DANCE", "ACT.MUSIC", "ACT.STORY", "ACT.EXERCISE", "ACT.VOICE", "MOV.FORWARD", "MOV.LEFT",
    "MOV.BACKWARD", "MOV.RIGHT", "TAKE", "RESET", ".word 0x15"].map String.toList) =
    .ok [0x00, 0x10, 0x11, 0x12, 0x13, 0x14, 0x18, 0x19, 0x1A, 0x1B, 0x20, 0x30, 0x15] ∧
  ∀ c : Command, assembleLine ("SEND.".toList ++ c.name) = .ok [c.word, 0x20] ∧ assembleLine c.mnemonic = .ok [c.word]

/-- The assembler does not distinguish case and reads nothing after `;`. R75 says so of the mnemonics and of the
comment. Over every line it is also about the case of `.word`, of its `0x` and of its hexadecimal digits, and about
a line that is blank but for a comment: R75 leaves these open, and there it is the model's choice (DESIGN CHOICE,
log 8). -/
def Obligations.AssemblerIgnoresCaseAndComment : Prop :=
  (∀ cs : List Char, assembleLine (cs.map Char.toUpper) = assembleLine cs) ∧
  ∀ cs ds : List Char, assembleLine (cs ++ ';' :: ds) = assembleLine cs
end

