-- ==== Sys2Proof/Laws/Checksum.lean ====
section
/-! SUPPORT. The small lemmas of the checksum function and the frames it closes. -/

namespace Sys2Proof.Machine

@[simp] theorem trueSum_nil : trueSum [] = 0 := rfl

@[simp] theorem trueSum_cons (b : Byte) (s : List Byte) : trueSum (b :: s) = b.toNat + trueSum s := by
  simp [trueSum]

@[simp] theorem trueSum_append (s t : List Byte) : trueSum (s ++ t) = trueSum s + trueSum t := by
  simp [trueSum]

/-- The checksum as a number: the true sum modulo 256. -/
theorem checksum8_toNat (s : List Byte) : (checksum8 s).toNat = trueSum s % 256 := by
  simp [checksum8, ckModulus]

@[simp] theorem encodeAction_length (a : ActionKind) : (encodeAction a).length = actLen := rfl

@[simp] theorem encodeMovement_length (d : DirectionKind) : (encodeMovement d).length = movLen := rfl

end Sys2Proof.Machine
end

