-- ==== Sys2Proof/Laws/State.lean ====
section
/-! SUPPORT. One lemma per field per update of the block and of the state. -/

namespace Sys2Proof.Machine

/-! ### Reset -/

@[simp] theorem Block.reset_fb : Block.reset.fb = Vector.replicate 10 0 := rfl
@[simp] theorem Block.reset_len : Block.reset.len = 0 := rfl
@[simp] theorem Block.reset_valid : Block.reset.valid = false := rfl
@[simp] theorem Block.reset_err : Block.reset.err = false := rfl
@[simp] theorem State.reset_block : State.reset.block = Block.reset := rfl
@[simp] theorem State.reset_host : State.reset.host = [] := rfl
@[simp] theorem State.reset_outcomes : State.reset.outcomes = [] := rfl

/-! ### Flags -/

@[simp] theorem Block.flagBuilt_fb (b : Block) : b.flagBuilt.fb = b.fb := rfl
@[simp] theorem Block.flagBuilt_len (b : Block) : b.flagBuilt.len = b.len := rfl
@[simp] theorem Block.flagBuilt_valid (b : Block) : b.flagBuilt.valid = true := rfl
@[simp] theorem Block.flagBuilt_err (b : Block) : b.flagBuilt.err = false := rfl

@[simp] theorem Block.flagReserved_fb (b : Block) : b.flagReserved.fb = b.fb := rfl
@[simp] theorem Block.flagReserved_len (b : Block) : b.flagReserved.len = b.len := rfl
@[simp] theorem Block.flagReserved_valid (b : Block) : b.flagReserved.valid = false := rfl
@[simp] theorem Block.flagReserved_err (b : Block) : b.flagReserved.err = true := rfl

@[simp] theorem Block.flagTaken_fb (b : Block) : b.flagTaken.fb = b.fb := rfl
@[simp] theorem Block.flagTaken_len (b : Block) : b.flagTaken.len = b.len := rfl
@[simp] theorem Block.flagTaken_valid (b : Block) : b.flagTaken.valid = false := rfl
@[simp] theorem Block.flagTaken_err (b : Block) : b.flagTaken.err = b.err := rfl

@[simp] theorem Block.flagReset_fb (b : Block) : b.flagReset.fb = b.fb := rfl
@[simp] theorem Block.flagReset_len (b : Block) : b.flagReset.len = b.len := rfl
@[simp] theorem Block.flagReset_valid (b : Block) : b.flagReset.valid = false := rfl
@[simp] theorem Block.flagReset_err (b : Block) : b.flagReset.err = false := rfl

/-! ### The frame buffer -/

@[simp] theorem Block.writeFrame_fb (f : List Byte) (n : Nat) (b : Block) : (b.writeFrame f n).fb = bufferOf f := rfl
@[simp] theorem Block.writeFrame_len (f : List Byte) (n : Nat) (b : Block) :
    (b.writeFrame f n).len = BitVec.ofNat 4 n := rfl
@[simp] theorem Block.writeFrame_valid (f : List Byte) (n : Nat) (b : Block) : (b.writeFrame f n).valid = b.valid := rfl
@[simp] theorem Block.writeFrame_err (f : List Byte) (n : Nat) (b : Block) : (b.writeFrame f n).err = b.err := rfl

@[simp] theorem Block.clearFrame_fb (b : Block) : b.clearFrame.fb = Vector.replicate 10 0 := rfl
@[simp] theorem Block.clearFrame_len (b : Block) : b.clearFrame.len = 0 := rfl
@[simp] theorem Block.clearFrame_valid (b : Block) : b.clearFrame.valid = b.valid := rfl
@[simp] theorem Block.clearFrame_err (b : Block) : b.clearFrame.err = b.err := rfl

/-! ### Outputs -/

@[simp] theorem Block.outputs_len (b : Block) : b.outputs.len = b.len := rfl
@[simp] theorem Block.outputs_valid (b : Block) : b.outputs.valid = b.valid := rfl
@[simp] theorem Block.outputs_err (b : Block) : b.outputs.err = b.err := rfl

/-! ### The host's side -/

@[simp] theorem State.present_block (op : OpWord) (s : State) : (s.present op).block = s.block := rfl
@[simp] theorem State.present_host (op : OpWord) (s : State) : (s.present op).host = .word op :: s.host := rfl
@[simp] theorem State.present_outcomes (op : OpWord) (s : State) : (s.present op).outcomes = s.outcomes := rfl

@[simp] theorem State.presentAll_block (ops : List OpWord) (s : State) : (s.presentAll ops).block = s.block := rfl
@[simp] theorem State.presentAll_host (ops : List OpWord) (s : State) :
    (s.presentAll ops).host = ops.map .word ++ s.host := rfl
@[simp] theorem State.presentAll_outcomes (ops : List OpWord) (s : State) :
    (s.presentAll ops).outcomes = s.outcomes := rfl
@[simp] theorem State.presentAll_nil (s : State) : s.presentAll [] = s := rfl
@[simp] theorem State.presentAll_cons (op : OpWord) (ops : List OpWord) (s : State) :
    s.presentAll (op :: ops) = (s.presentAll ops).present op := rfl

end Sys2Proof.Machine
end

