-- ==== Sys2Proof/Laws/Ops.lean ====
section
/-! SUPPORT. What each shared operation does, said once: the buffer write, the end of a step, and the acceptance of
the host's next event. -/

namespace Sys2Proof.Machine

/-- Every cell of the buffer holds the frame's byte at its index, or `0x00` behind the frame. -/
theorem bufferOf_get (f : List Byte) (i : Fin 10) : (bufferOf f)[i] = f.getD i.val 0 := by
  simp [bufferOf]

/-- The buffer as a sequence: the frame and zeros up to ten bytes. -/
theorem bufferOf_toList (f : List Byte) (h : f.length ≤ 10) :
    (bufferOf f).toList = f ++ List.replicate (10 - f.length) 0 := by
  apply List.ext_getElem
  · simp; omega
  · intro i h1 h2
    have hi : i < 10 := by simpa using h1
    by_cases hf : i < f.length
    · simp [bufferOf, List.getElem_append_left hf, List.getElem?_eq_getElem hf]
    · have hn : f[i]? = none := List.getElem?_eq_none (Nat.le_of_not_lt hf)
      simp [bufferOf, List.getElem_append_right (Nat.le_of_not_lt hf), hn]

/-- The end of a step always answers a next state, which differs in the block and by one outcome only. -/
theorem State.endStep_eq (b : Block) (o : StepOutcome) (s : State) :
    State.endStep b o s = .next ⟨b, s.host, s.outcomes ++ [o]⟩ := rfl

/-- A raise ends the step as a return does: there is no trap (R134). -/
theorem State.raise_eq (b : Block) (o : StepOutcome) (s : State) :
    State.raise b o s = .next ⟨b, s.host, s.outcomes ++ [o]⟩ := rfl

/-- What the next step finds, by the host's next event. -/
theorem State.accept_nil {s : State} (h : s.host = []) : s.accept = .idle s := by
  simp [State.accept, h]

theorem State.accept_word {s : State} {op : OpWord} {rest : List HostEvent} (h : s.host = .word op :: rest) :
    s.accept = .word op ⟨s.block, rest, s.outcomes⟩ := by
  simp [State.accept, h]

theorem State.accept_pinReset {s : State} {rest : List HostEvent} (h : s.host = .pinReset :: rest) :
    s.accept = .pinReset ⟨Block.reset, rest, s.outcomes⟩ := by
  simp [State.accept, h]

theorem State.accept_contention {s : State} {rest : List HostEvent} (h : s.host = .contention :: rest) :
    s.accept = .stop .portContention := by
  simp [State.accept, h]

/-- A presented word is what the next step accepts, in the state it was presented to. -/
theorem State.accept_present (op : OpWord) (s : State) : (s.present op).accept = .word op s := rfl

end Sys2Proof.Machine
end

