-- ==== Sys2Proof/Laws/Exec.lean ====
section
/-! SUPPORT. What the shared steps of the meanings do, and the one shape every meaning's result has. -/

namespace Sys2Proof.Machine

/-- `StepAct(a)` writes the whole block and reads none of it. -/
theorem stepAct_eq (a : ActionKind) (s : State) :
    stepAct a s = .next ⟨⟨bufferOf (encodeAction a), 6, true, false⟩, s.host, s.outcomes ++ [.ok]⟩ := rfl

/-- `StepMov(d)` writes the whole block and reads none of it. -/
theorem stepMov_eq (d : DirectionKind) (s : State) :
    stepMov d s = .next ⟨⟨bufferOf (encodeMovement d), 10, true, false⟩, s.host, s.outcomes ++ [.ok]⟩ := rfl

/-- `StepReserved` writes the whole block and reads none of it. -/
theorem stepReserved_eq (s : State) :
    stepReserved s =
      .next ⟨⟨Vector.replicate 10 0, 0, false, true⟩, s.host, s.outcomes ++ [.unknownCommand]⟩ := rfl

/-- `TAKE` with a frame waiting clears `VALID` and hands the held bytes over. -/
theorem execTake_of_valid (low : BitVec 4) {s : State} (h : s.block.valid = true) :
    execTake low s = .next ⟨s.block.flagTaken, s.host, s.outcomes ++ [.frame s.block.heldFrame]⟩ := by
  simp only [execTake, h, if_true]
  rfl

/-- `TAKE` with nothing waiting changes nothing of the block. -/
theorem execTake_of_not_valid (low : BitVec 4) {s : State} (h : s.block.valid = false) :
    execTake low s = .next ⟨s.block, s.host, s.outcomes ++ [.noFrame]⟩ := by
  simp only [execTake, h]
  rfl

/-- Every meaning reads the block alone and ends its step with one outcome, whatever the host's side holds. -/
theorem exec_of_block (i : Instr) (b : Block) :
    ∃ c o, ∀ h os, exec i ⟨b, h, os⟩ = .next ⟨c, h, os ++ [o]⟩ := by
  cases i with
  | take low =>
    cases hv : b.valid with
    | true => exact ⟨b.flagTaken, .frame b.heldFrame, fun h os => execTake_of_valid (s := ⟨b, h, os⟩) low hv⟩
    | false => exact ⟨b, .noFrame, fun h os => execTake_of_not_valid (s := ⟨b, h, os⟩) low hv⟩
  | nop low => exact ⟨b, .ok, fun _ _ => rfl⟩
  | reset low => exact ⟨b.clearFrame.flagReset, .ok, fun _ _ => rfl⟩
  | reservedAct5 | reservedAct67 | reservedMov47 =>
    exact ⟨b.clearFrame.flagReserved, .unknownCommand, fun _ _ => rfl⟩
  | actDance => exact ⟨b.afterAct .dance, .ok, fun _ _ => rfl⟩
  | actMusic => exact ⟨b.afterAct .music, .ok, fun _ _ => rfl⟩
  | actStory => exact ⟨b.afterAct .story, .ok, fun _ _ => rfl⟩
  | actExercise => exact ⟨b.afterAct .exercise, .ok, fun _ _ => rfl⟩
  | actVoice => exact ⟨b.afterAct .voice, .ok, fun _ _ => rfl⟩
  | movForward => exact ⟨b.afterMov .forward, .ok, fun _ _ => rfl⟩
  | movLeft => exact ⟨b.afterMov .left, .ok, fun _ _ => rfl⟩
  | movBackward => exact ⟨b.afterMov .backward, .ok, fun _ _ => rfl⟩
  | movRight => exact ⟨b.afterMov .right, .ok, fun _ _ => rfl⟩

/-- Every meaning ends its step with one outcome, leaving the host's side as it was. -/
theorem exec_endStep (i : Instr) (s : State) : ∃ b o, exec i s = .next ⟨b, s.host, s.outcomes ++ [o]⟩ := by
  obtain ⟨b, o, h⟩ := exec_of_block i s.block
  exact ⟨b, o, h s.host s.outcomes⟩

end Sys2Proof.Machine
end

