-- ==== Sys2Proof/Laws/PerInstr.lean ====
section
/-! SUPPORT. Statements made per instruction, as syntax: family `EncodingRow`, the word a well-formed instruction
stands for lies in the instruction's own row of the operation-word table and in no other (R64). -/

namespace Sys2Proof.Laws.EncodingRow

/-- The rows that hold the instruction's word are its own row alone. -/
def Statement (i : Instr) : Prop :=
  i.wellFormed = true → (opTable.filter fun r => r.holds (encode i)).map OpRow.label = [i.mnemonic]

theorem nop (low : BitVec 4) : Statement (.nop low) := by
  revert low; unfold Statement; decide

theorem actDance : Statement .actDance := by unfold Statement; decide

theorem actMusic : Statement .actMusic := by unfold Statement; decide

theorem actStory : Statement .actStory := by unfold Statement; decide

theorem actExercise : Statement .actExercise := by unfold Statement; decide

theorem actVoice : Statement .actVoice := by unfold Statement; decide

theorem reservedAct5 : Statement .reservedAct5 := by unfold Statement; decide

theorem reservedAct67 (sel : BitVec 3) : Statement (.reservedAct67 sel) := by
  revert sel; unfold Statement; decide

theorem movForward : Statement .movForward := by unfold Statement; decide

theorem movLeft : Statement .movLeft := by unfold Statement; decide

theorem movBackward : Statement .movBackward := by unfold Statement; decide

theorem movRight : Statement .movRight := by unfold Statement; decide

theorem reservedMov47 (sel : BitVec 3) : Statement (.reservedMov47 sel) := by
  revert sel; unfold Statement; decide

theorem take (low : BitVec 4) : Statement (.take low) := by
  revert low; unfold Statement; decide

theorem reset (low : BitVec 4) : Statement (.reset low) := by
  revert low; unfold Statement; decide

end Sys2Proof.Laws.EncodingRow
end

