-- ==== Sys2Proof/Laws/Run.lean ====
section
/-! SUPPORT. One word of a run at a time, and the small lemmas of the terms claims are stated in. -/

namespace Sys2Proof.Machine

/-- A run of no words stays where it is. -/
theorem runWords_nil (s : State) : s.runWords [] = .next s := rfl

/-- A run of words is the first word's step and then the run of the rest. -/
theorem runWords_cons (op : OpWord) (ops : List OpWord) (b : Block) :
    ∃ c o, ∀ h os, exec (decode op) ⟨b, h, os⟩ = .next ⟨c, h, os ++ [o]⟩ ∧
      State.runWords (op :: ops) ⟨b, h, os⟩ = State.runWords ops ⟨c, h, os ++ [o]⟩ := by
  obtain ⟨c, o, hex⟩ := exec_of_block (decode op) b
  refine ⟨c, o, fun h os => ⟨hex h os, ?_⟩⟩
  have e : Sys2Proof.core.step (State.presentAll (op :: ops) ⟨b, h, os⟩) =
      exec (decode op) (State.presentAll ops ⟨b, h, os⟩) := rfl
  have e' : exec (decode op) (State.presentAll ops ⟨b, h, os⟩) =
      .next (State.presentAll ops ⟨c, h, os ++ [o]⟩) := hex (ops.map HostEvent.word ++ h) os
  simp only [State.runWords, List.length_cons, Host.Core.run]
  rw [e, e']

@[simp] theorem tableRun_nil (b : Block) : tableRun [] b = (b, []) := rfl

theorem tableRun_cons (op : OpWord) (ops : List OpWord) (b : Block) :
    tableRun (op :: ops) b =
      ((tableRun ops (tableStep op b).1).1, (tableStep op b).2 :: (tableRun ops (tableStep op b).1).2) := rfl

@[simp] theorem frameCount_nil : frameCount [] = 0 := rfl

@[simp] theorem legalCount_nil : legalCount [] = 0 := rfl

@[simp] theorem waitingAfter_nil (c : Option Command) : waitingAfter c [] = c := rfl

@[simp] theorem errAfter_nil (e : Bool) : errAfter e [] = e := rfl

end Sys2Proof.Machine
end

