-- ==== Sys2Proof/Laws/Words.lean ====
section
/-! SUPPORT. The widths written in `Word.lean` and `Machine/State.lean` are the parameters of `Config`. -/

namespace Sys2Proof.Laws

theorem byte_width : Byte = BitVec Config.byteWidth := rfl

theorem opWord_width : OpWord = BitVec Config.opWidth := rfl

theorem len_width : Len = BitVec Config.lenWidth := rfl

theorem reset_buffer_size : Machine.Block.reset.fb.toList.length = Config.fbSize := by decide

end Sys2Proof.Laws
end

