-- ==== Sys2Proof/Tests/Slice0.lean ====
section
/-! SUPPORT. The model's own tests. Expected results are the rows of `spec/95_test_vectors.md` (named in each comment)
or the encodings of `30_encoding.md`, never the model's answers. The last part shows, for every statement that has
hypotheses, a state and operands that meet them. -/

namespace Sys2Proof.Tests

open Sys2Proof.Machine

/-- The next state, where there is one. -/
def nextState : Host.Outcome State Fault Refusal → Option State
  | .next s => some s
  | .fault _ => none
  | .refused _ => none

/-- A state with the block's four items given, nothing to come and no outcome so far. -/
def stateOf (fb : Vector Byte 10) (len : Len) (valid err : Bool) : State := ⟨⟨fb, len, valid, err⟩, [], []⟩

/-- The outcome and the block a word leaves, executed in a state. -/
def ran (op : OpWord) (s : State) : Option (Block × List StepOutcome) :=
  (nextState (exec (decode op) s)).map fun t => (t.block, t.outcomes)

def danceBytes : Vector Byte 10 := #v[0xB3, 0x02, 0x02, 0x00, 0x02, 0xAA, 0x00, 0x00, 0x00, 0x00]
def leftBytes : Vector Byte 10 := #v[0xB6, 0x06, 0x00, 0x05, 0x05, 0x00, 0x00, 0x00, 0x00, 0x0A]
def zeroBytes : Vector Byte 10 := #v[0x00, 0x00, 0x00, 0x00, 0x00, 0x00, 0x00, 0x00, 0x00, 0x00]

/-- The states S1 to S5 of `95_test_vectors.md` section 5. -/
def s1 : State := stateOf danceBytes 6 true false
def s2 : State := stateOf leftBytes 10 true false
def s3 : State := stateOf danceBytes 6 false false
def s4 : State := stateOf leftBytes 10 false false
def s5 : State := stateOf zeroBytes 0 false true

/-! ### Well-formedness and decoding -/

theorem test_wellFormed_refuses_act67_selector_5 : (Instr.reservedAct67 5).wellFormed = false := by decide

theorem test_wellFormed_refuses_mov47_selector_3 : (Instr.reservedMov47 3).wellFormed = false := by decide

theorem test_wellFormed_accepts : (Instr.reservedAct67 6).wellFormed = true ∧
    (Instr.reservedMov47 4).wellFormed = true ∧ (Instr.take 15).wellFormed = true := by decide

/-- One word of each row, written out bit by bit from R64. -/
theorem test_decode_rows : [0b000111#6, 0b010000#6, 0b010001#6, 0b010010#6, 0b010011#6, 0b010100#6, 0b010101#6,
      0b010110#6, 0b011000#6, 0b011001#6, 0b011010#6, 0b011011#6, 0b011100#6, 0b100000#6, 0b110000#6].map decode =
    [.nop 7, .actDance, .actMusic, .actStory, .actExercise, .actVoice, .reservedAct5, .reservedAct67 6, .movForward,
      .movLeft, .movBackward, .movRight, .reservedMov47 4, .take 0, .reset 0] := by decide

/-- The last word of each row that holds several (R64). -/
theorem test_decode_row_ends : [0b001111#6, 0b010111#6, 0b011111#6, 0b101111#6, 0b111111#6].map decode =
    [.nop 15, .reservedAct67 7, .reservedMov47 7, .take 15, .reset 15] := by decide

/-- H4: `0x25` is `TAKE`; its low bits name no reserved selector. -/
theorem test_decode_take_before_selector : decode 0x25 = .take 5 ∧ OpWord.isReserved 0x25 = false := by decide

/-- R60: a number of more than 6 bits is no operation word. -/
theorem test_decodeRaw_rejects_64 : decodeRaw 64 = .error (.widerThanPort 64) ∧ decodeTableWord 8 63 = some (.reset 15) := by
  decide

/-! ### The checksum: K1, K8, K12, K13, K16, K17 -/

theorem test_checksum_vectors : [([] : List Byte), [0x7F, 0x01], [0xFF, 0xFF], [0xC8, 0x64],
      [0xFF, 0xFF, 0xFF, 0xFF, 0xFF, 0xFF], [0x12, 0x34, 0x56, 0x78, 0x9A, 0xBC]].map checksum8 =
    [0x00, 0x80, 0xFE, 0x2C, 0xFA, 0x6A] := by decide

/-! ### The instructions -/

/-- X7: a waiting frame stays waiting. -/
theorem test_nop_keeps_waiting_frame : ran 0x00 s1 = some (⟨danceBytes, 6, true, false⟩, [.ok]) := by decide

/-- X31: a recorded error stays recorded. -/
theorem test_nop_keeps_error : ran 0x0F s5 = some (⟨zeroBytes, 0, false, true⟩, [.ok]) := by decide

/-- W1, A1. -/
theorem test_actDance_frame : ran 0x10 s4 = some (⟨danceBytes, 6, true, false⟩, [.ok]) := by decide

/-- A2; P3 step 4: a legal word clears `ERR`. -/
theorem test_actMusic_clears_error : ran 0x11 s5 =
    some (⟨#v[0xB3, 0x02, 0x03, 0x00, 0x03, 0xAA, 0x00, 0x00, 0x00, 0x00], 6, true, false⟩, [.ok]) := by decide

/-- A3. -/
theorem test_actStory_frame : ran 0x12 s3 =
    some (⟨#v[0xB3, 0x02, 0x01, 0x00, 0x01, 0xAA, 0x00, 0x00, 0x00, 0x00], 6, true, false⟩, [.ok]) := by decide

/-- X14: nothing of the movement frame remains. -/
theorem test_actExercise_over_movement : ran 0x13 s2 =
    some (⟨#v[0xB3, 0x02, 0x00, 0x00, 0x00, 0xAA, 0x00, 0x00, 0x00, 0x00], 6, true, false⟩, [.ok]) := by decide

/-- A5. -/
theorem test_actVoice_frame : ran 0x14 s1 =
    some (⟨#v[0xB3, 0x02, 0x04, 0x00, 0x04, 0xAA, 0x00, 0x00, 0x00, 0x00], 6, true, false⟩, [.ok]) := by decide

/-- W3, M1. -/
theorem test_movForward_frame : ran 0x18 s1 =
    some (⟨#v[0xB6, 0x06, 0x00, 0x05, 0x03, 0x00, 0x00, 0x00, 0x00, 0x08], 10, true, false⟩, [.ok]) := by decide

/-- M2. -/
theorem test_movLeft_frame : ran 0x19 s5 = some (⟨leftBytes, 10, true, false⟩, [.ok]) := by decide

/-- M3, H3. -/
theorem test_movBackward_frame : ran 0x1A s2 =
    some (⟨#v[0xB6, 0x06, 0x00, 0x05, 0x07, 0x00, 0x00, 0x00, 0x00, 0x0C], 10, true, false⟩, [.ok]) := by decide

/-- M4, X9. -/
theorem test_movRight_over_action : ran 0x1B s1 =
    some (⟨#v[0xB6, 0x06, 0x00, 0x05, 0x01, 0x00, 0x00, 0x00, 0x00, 0x06], 10, true, false⟩, [.ok]) := by decide

/-- P3 step 2. -/
theorem test_reservedAct5_discards : ran 0x15 s1 = some (⟨zeroBytes, 0, false, true⟩, [.unknownCommand]) := by decide

/-- H5, first word. -/
theorem test_reservedAct67_from_reset : ran 0x16 State.reset =
    some (⟨zeroBytes, 0, false, true⟩, [.unknownCommand]) := by decide

/-- X34: raised again while `ERR = 1`. -/
theorem test_reservedMov47_again : ran 0x1C s5 = some (⟨zeroBytes, 0, false, true⟩, [.unknownCommand]) := by decide

/-- X17: ten bytes, index 0 first, `VALID` cleared, `FB` and `LEN` kept. -/
theorem test_take_movement : ran 0x20 s2 =
    some (⟨leftBytes, 10, false, false⟩,
      [.frame [0xB6, 0x06, 0x00, 0x05, 0x05, 0x00, 0x00, 0x00, 0x00, 0x0A]]) := by decide

/-- X35: nothing to hand over; `ERR` stays. -/
theorem test_take_noFrame : ran 0x2A s5 = some (⟨zeroBytes, 0, false, true⟩, [.noFrame]) := by decide

/-- X18. -/
theorem test_reset_discards : ran 0x3C s2 = some (⟨zeroBytes, 0, false, false⟩, [.ok]) := by decide

/-! ### Steps -/

/-- R64 row `0x10` as the first instruction after reset. -/
theorem test_step_first_word : nextState (step (State.reset.withFetchWord 8 0x10)) =
    some ⟨⟨danceBytes, 6, true, false⟩, [], [.ok]⟩ := by decide

/-- R150: a pin reset leaves the reset state. -/
theorem test_step_pinReset : nextState (step ⟨s2.block, [.pinReset], []⟩) = some State.reset := by decide

/-- R141: with nothing presented the state is held. -/
theorem test_step_idle : nextState (step s2) = some s2 := by decide

/-- U10: two drivers at once have no step. -/
theorem test_step_contention : nextState (step ⟨s2.block, [.contention], []⟩) = none := by decide

/-! ### The assembler (R75) -/

/-- P2 line 1, with a comment, in mixed case; P3 line 2. -/
theorem test_assembler_lines :
    assemble ["  send.Forward   ; one tick".toList, ".word 0x15".toList, "; nothing".toList] =
      .ok [0x18, 0x20, 0x15] := by decide

/-- R60: a raw word has 6 bits. -/
theorem test_assembler_rejects : assembleLine ".word 0x40".toList = .error (.notAWord (.widerThanPort 64)) ∧
    assembleLine "JUMP".toList = .error (.unknownLine "JUMP".toList) := by decide

/-! ### Witnesses: hypotheses that can be met

Each names the statement whose hypotheses it meets. -/

/-- The invariants hold of the block after `ACT.DANCE` (S1), a waiting action frame. -/
theorem s1_inv : s1.block.Inv where
  len_values := .inr (.inl rfl)
  tail_zero := by
    have h : ∀ i : Fin 10, 6 ≤ i.val → danceBytes[i] = 0 := by decide
    exact h
  action_held := fun _ => ⟨.dance, by decide, by intro a; cases a <;> decide⟩
  movement_held := fun h => absurd (show (6 : Len) = 10 from h) (by decide)
  valid_len := fun _ => .inl rfl
  err_empty := fun h => absurd (show false = true from h) (by decide)
  empty_invalid := fun h => absurd (show (6 : Len) = 0 from h) (by decide)

/-- The invariants hold of the block after `MOV.LEFT` (S2), a waiting movement frame of the full ten bytes. -/
theorem s2_inv : s2.block.Inv where
  len_values := .inr (.inr rfl)
  tail_zero := by
    have h : ∀ i : Fin 10, 10 ≤ i.val → leftBytes[i] = 0 := by decide
    exact h
  action_held := fun h => absurd (show (10 : Len) = 6 from h) (by decide)
  movement_held := fun _ => ⟨.left, by decide, by intro d; cases d <;> decide⟩
  valid_len := fun _ => .inr rfl
  err_empty := fun h => absurd (show false = true from h) (by decide)
  empty_invalid := fun h => absurd (show (10 : Len) = 0 from h) (by decide)

/-- S2 with words still to come and a frame already handed over. -/
def busy : State := ⟨s2.block, [.word 0x2F, .word 0x15], [.ok, .frame (encodeAction .voice)]⟩

theorem busy_onlyLegalFrames : busy.OnlyLegalFrames := by
  intro f h
  simp only [busy, List.mem_cons, List.not_mem_nil, or_false, reduceCtorEq, false_or] at h
  cases h
  decide

theorem witness_ResetLeavesEveryItemZero : (⟨s1.block, [.pinReset], []⟩ : State).host = .pinReset :: [] := rfl

theorem witness_StraightAfterReset :
    ∀ op ∈ ([0x0F, 0x15, 0x1F, 0x20, 0x30] : List OpWord), Command.ofWord op = none := by decide

theorem witness_DecodeEncodeAgree : (Instr.reservedMov47 7).wellFormed = true := by decide

theorem witness_LowBitsIgnored : (0x0F : OpWord).extractLsb' 4 2 ≠ 0b01#2 ∧ (0x25 : OpWord).extractLsb' 4 2 ≠ 0b01#2 ∧
    (0x3F : OpWord).extractLsb' 4 2 ≠ 0b01#2 := by decide

theorem witness_CodeTables : opcodeByte .voice = opcodeByte .voice ∧ directionByte .right = directionByte .right :=
  ⟨rfl, rfl⟩

theorem witness_ChecksumLaws : ([0xC8, 0x64, 0xFF] : List Byte).Perm [0xFF, 0xC8, 0x64] ∧
    encodeMovement .right ∈ legalFrames ∧ movCkSpan ∈ [actCkSpan, movCkSpan] := by decide

theorem witness_EncodeActionStep : encodeAction .voice = encodeAction .voice := rfl

theorem witness_EncodeMovementStep : encodeMovement .left = encodeMovement .left ∧ (8 : Nat) ≠ 4 ∧ (8 : Nat) ≠ 9 := by
  decide

theorem witness_TakeHandsOver : s1.block.Inv ∧ s1.block.valid = true ∧ s2.block.Inv ∧ s2.block.valid = true ∧
    s3.block.valid = false ∧ State.reset.block.valid = false :=
  ⟨s1_inv, rfl, s2_inv, rfl, rfl, rfl⟩

theorem witness_EncodeWordAloneDecides : (0x10 : OpWord).extractLsb' 4 2 = 0b01#2 ∧
    (0x1F : OpWord).extractLsb' 4 2 = 0b01#2 := by decide

/-- One clause each: `NOP`, `TAKE`, an `ACT`, a `MOV`, a reserved word, `RESET`. -/
theorem witness_WritesAsTabled : ∀ i ∈ [Instr.nop 1, .take 0, .actVoice, .movRight, .reservedMov47 7, .reset 0],
    (nextState (exec i s1)).isSome = true := by decide

/-- Two states that agree on what `TAKE` reads and differ in a cell behind the frame and in `ERR`. -/
theorem witness_ReadsAsTabled :
    exec (.take 0) s1 = .next ⟨s1.block.flagTaken, [], [.frame s1.block.heldFrame]⟩ ∧
    exec (.take 0) (stateOf (danceBytes.set 9 0x77) 6 true true) =
      .next ⟨⟨danceBytes.set 9 0x77, 6, false, true⟩, [], [.frame (encodeAction .dance)]⟩ ∧
    s1.block.len = 6 ∧ (∀ j : Fin 10, j.val < 6 → danceBytes[j] = (danceBytes.set 9 0x77)[j]) ∧
    (∀ low, Instr.actVoice ≠ .nop low) ∧ ∀ low, Instr.actVoice ≠ .take low :=
  ⟨rfl, rfl, rfl, by decide, by decide, by decide⟩

theorem witness_StepKeepsInvariant : busy.block.Inv ∧ busy.OnlyLegalFrames ∧
    step busy = .next ⟨s2.block.flagTaken, [.word 0x15], busy.outcomes ++ [.frame s2.block.heldFrame]⟩ :=
  ⟨s2_inv, busy_onlyLegalFrames, rfl⟩

theorem witness_EveryRunMeetsInvariant : 2 ≤ ([0x10, 0x20] : List OpWord).length ∧
    Host.Core.run Sys2Proof.core 2 (State.reset.presentAll [0x10, 0x20]) =
      .next ⟨s3.block, [], [.ok, .frame (encodeAction .dance)]⟩ := ⟨by decide, rfl⟩

theorem witness_ExactlyNineFrames : State.reset.runWords [0x19, 0x20] =
      .next ⟨s4.block, [], [.ok, .frame (encodeMovement .left)]⟩ ∧ encodeMovement .left ∈ legalFrames := ⟨rfl, by decide⟩

theorem witness_LenWrites : State.reset.runWords [0x19] = .next ⟨s2.block, [], [.ok]⟩ := rfl

theorem witness_ValidMeansFrameWaits : waitingAfter none [0x15, 0x11, 0x00] = some (.act .music) ∧
    waitingAfter none [0x11, 0x20] = none := by decide

theorem witness_StepRunsDecodedWord : busy.host = .word 0x2F :: [.word 0x15] ∧
    (Instr.reservedAct67 7).wellFormed = true ∧ (0 : Nat) < 64 ∧ (63 : Nat) < 64 := by decide

theorem witness_IdleHoldsState : s2.host = [] := rfl

theorem witness_PinResetStep : (⟨s5.block, .pinReset :: [.word 0x10], []⟩ : State).host = .pinReset :: [.word 0x10] := rfl

theorem witness_OnlyContentionStops : (⟨s5.block, [.contention], []⟩ : State).host = .contention :: [] ∧
    ∀ rest, busy.host ≠ .contention :: rest := ⟨rfl, by intro rest h; cases h⟩

theorem witness_EveryWordAccepted : busy.host = .word 0x2F :: [.word 0x15] := rfl

theorem witness_FrameTakenOnce : exec .movLeft s5 = .next ⟨s2.block, [], [.ok]⟩ ∧
    exec .movLeft ⟨s2.block, [], [.ok]⟩ = .next ⟨s2.block, [], [.ok, .ok]⟩ ∧ (∀ low, Instr.movLeft ≠ .take low) ∧
    exec (.take 3) s2 = .next ⟨s4.block, [], [.frame (encodeMovement .left)]⟩ ∧
    (0x2F : OpWord).extractLsb' 4 2 = 0b10#2 ∧
    ∀ w ∈ ([0x0F, 0x20, 0x30] : List OpWord), w.extractLsb' 4 2 ≠ 0b01#2 :=
  ⟨rfl, rfl, by decide, rfl, by decide, by decide⟩

theorem witness_SequentialEffect : (∀ w ∈ ([0x00, 0x0F] : List OpWord), w.extractLsb' 4 2 = 0b00#2) ∧
    (0x25 : OpWord).extractLsb' 4 2 = 0b10#2 := by decide

theorem witness_OverwriteLosesFrame : ((0x1F : OpWord).extractLsb' 4 2 = 0b01#2 ∨
      (0x1F : OpWord).extractLsb' 4 2 = 0b11#2) ∧ s1.host = s5.host ∧ s1.outcomes = s5.outcomes := by decide

theorem witness_FailureRecovery : s4.block.valid = false ∧ OpWord.isReserved 0x15 = true ∧
    OpWord.isReserved 0x1C = true := by decide

theorem witness_NoFrameBeforeChecksum : busy.block.Inv ∧
    step busy = .next ⟨s4.block, [.word 0x15], busy.outcomes ++ [.frame (encodeMovement .left)]⟩ :=
  ⟨s2_inv, rfl⟩

/-- Two blocks the host cannot tell apart whose buffers differ, waiting and not waiting. -/
theorem witness_BufferSeenOnlyThroughTake :
    s1.block.SameToHost ⟨danceBytes.set 9 0x77, 6, true, false⟩ ∧ s3.block.SameToHost ⟨zeroBytes, 6, false, false⟩ :=
  ⟨⟨rfl, fun _ => rfl⟩, ⟨rfl, fun h => absurd (show false = true from h) (by decide)⟩⟩

end Sys2Proof.Tests
end

section
/-! PROOFS. The kinds: the code tables of R27 are injective, so a frame determines its kind; and the selectors of R63
name the kinds. -/

namespace Sys2Proof.Machine

theorem ActionKind.mem_all (a : ActionKind) : a ∈ ActionKind.all := by cases a <;> decide

theorem DirectionKind.mem_all (d : DirectionKind) : d ∈ DirectionKind.all := by cases d <;> decide

theorem map_opcodeByte_all : ActionKind.all.map opcodeByte = [0x02, 0x03, 0x01, 0x00, 0x04] := rfl

theorem map_directionByte_all : DirectionKind.all.map directionByte = [0x03, 0x05, 0x07, 0x01] := rfl

/-- No byte stands twice in the opcode table. -/
theorem opcodeByte_injective : Function.Injective opcodeByte := by
  have hnodup : (ActionKind.all.map opcodeByte).Nodup := by rw [map_opcodeByte_all]; decide
  exact fun a b => List.inj_on_of_nodup_map hnodup a.mem_all b.mem_all

/-- No byte stands twice in the direction table. -/
theorem directionByte_injective : Function.Injective directionByte := by
  have hnodup : (DirectionKind.all.map directionByte).Nodup := by rw [map_directionByte_all]; decide
  exact fun d e => List.inj_on_of_nodup_map hnodup d.mem_all e.mem_all

/-- Byte 2 of an action frame is the opcode byte (R68). -/
theorem encodeAction_injective : Function.Injective encodeAction := fun _ _ h =>
  opcodeByte_injective (Option.some.inj (congrArg (·[2]?) h))

/-- Byte 4 of a movement frame is the direction byte (R68). -/
theorem encodeMovement_injective : Function.Injective encodeMovement := fun _ _ h =>
  directionByte_injective (Option.some.inj (congrArg (·[4]?) h))

theorem ActionKind.ofSelector_eq_none_iff (s : BitVec 3) : ActionKind.ofSelector s = none ↔ 5 ≤ s.toNat :=
  List.getElem?_eq_none_iff

theorem DirectionKind.ofSelector_eq_none_iff (s : BitVec 3) : DirectionKind.ofSelector s = none ↔ 4 ≤ s.toNat :=
  List.getElem?_eq_none_iff

theorem ActionKind.eq_selector_of_ofSelector {s : BitVec 3} {a : ActionKind}
    (h : ActionKind.ofSelector s = some a) : s = a.selector := by
  revert s; cases a <;> decide

theorem DirectionKind.eq_selector_of_ofSelector {s : BitVec 3} {d : DirectionKind}
    (h : DirectionKind.ofSelector s = some d) : s = d.selector := by
  revert s; cases d <;> decide

end Sys2Proof.Machine
end

section
/-! PROOFS. The meaning of every operation word, said once: one case for each class of `OPC`, class ENCODE cut into
commands and reserved words (R61, R71), each with the block and the outcome its step ends with. -/

namespace Sys2Proof.Machine

/-- What a command leaves `LEN` at (R25). -/
def Command.frameLen : Command → Len
  | .act _ => 6
  | .mov _ => 10

/-- The block after a command's ENCODE word (R100, R110). -/
def Command.builtBlock (c : Command) : Block := ⟨bufferOf (encodeCommand c), c.frameLen, true, false⟩

/-- The block after a reserved ENCODE word (R123). -/
def Block.discarded : Block := ⟨Vector.replicate 10 0, 0, false, true⟩

/-- The outcome of a `TAKE` (R121). -/
def Block.takeOutcome (b : Block) : StepOutcome := if b.valid then .frame b.heldFrame else .noFrame

/-- Both branches of `TAKE` as one: clearing a `VALID` that is already 0 changes nothing. -/
theorem execTake_eq (low : BitVec 4) (s : State) :
    execTake low s = .next ⟨s.block.flagTaken, s.host, s.outcomes ++ [s.block.takeOutcome]⟩ := by
  cases hv : s.block.valid with
  | true => rw [execTake_of_valid low hv]; simp [Block.takeOutcome, hv]
  | false =>
    have hsame : s.block.flagTaken = s.block := by rw [Block.flagTaken, ← hv]
    rw [execTake_of_not_valid low hv, hsame]; simp [Block.takeOutcome, hv]

theorem exec_take (low : BitVec 4) (s : State) :
    exec (.take low) s = .next ⟨s.block.flagTaken, s.host, s.outcomes ++ [s.block.takeOutcome]⟩ := execTake_eq low s

theorem exec_reset (low : BitVec 4) (s : State) :
    exec (.reset low) s = .next ⟨Block.reset, s.host, s.outcomes ++ [.ok]⟩ := rfl

theorem exec_decodeAction_selector (a : ActionKind) (s : State) :
    exec (decodeAction a.selector) s =
      .next ⟨(Command.act a).builtBlock, s.host, s.outcomes ++ [.ok]⟩ := by
  cases a <;> rfl

theorem exec_decodeMovement_selector (d : DirectionKind) (s : State) :
    exec (decodeMovement d.selector) s =
      .next ⟨(Command.mov d).builtBlock, s.host, s.outcomes ++ [.ok]⟩ := by
  cases d <;> rfl

theorem exec_decodeAction_reserved {sel : BitVec 3} (h : 5 ≤ sel.toNat) (s : State) :
    exec (decodeAction sel) s = .next ⟨Block.discarded, s.host, s.outcomes ++ [.unknownCommand]⟩ := by
  have hrow : decodeAction sel = .reservedAct5 ∨ decodeAction sel = .reservedAct67 sel := by
    revert sel; decide
  obtain hdec | hdec := hrow <;> rw [hdec] <;> rfl

theorem exec_decodeMovement_reserved {sel : BitVec 3} (h : 4 ≤ sel.toNat) (s : State) :
    exec (decodeMovement sel) s = .next ⟨Block.discarded, s.host, s.outcomes ++ [.unknownCommand]⟩ := by
  have hrow : decodeMovement sel = .reservedMov47 sel := by
    revert sel; decide
  rw [hrow]; rfl

/-- What an operation word is and does. -/
inductive WordMeaning (op : OpWord) : Prop
  /-- R120. -/
  | nop (hopc : op.extractLsb' 4 2 = 0b00#2)
      (hexec : ∀ s, exec (decode op) s = .next ⟨s.block, s.host, s.outcomes ++ [.ok]⟩)
  /-- R100, R110. -/
  | command (c : Command) (hopc : op.extractLsb' 4 2 = 0b01#2) (hword : Command.ofWord op = some c)
      (hres : OpWord.isReserved op = false)
      (hexec : ∀ s, exec (decode op) s = .next ⟨c.builtBlock, s.host, s.outcomes ++ [.ok]⟩)
  /-- R123. -/
  | reserved (hopc : op.extractLsb' 4 2 = 0b01#2) (hword : Command.ofWord op = none)
      (hres : OpWord.isReserved op = true)
      (hexec : ∀ s, exec (decode op) s = .next ⟨Block.discarded, s.host, s.outcomes ++ [.unknownCommand]⟩)
  /-- R121. -/
  | take (hopc : op.extractLsb' 4 2 = 0b10#2)
      (hexec : ∀ s, exec (decode op) s =
        .next ⟨s.block.flagTaken, s.host, s.outcomes ++ [s.block.takeOutcome]⟩)
  /-- R122. -/
  | reset (hopc : op.extractLsb' 4 2 = 0b11#2)
      (hexec : ∀ s, exec (decode op) s = .next ⟨Block.reset, s.host, s.outcomes ++ [.ok]⟩)

/-- Under `OPC = 01`, `K = 0` the selector alone decides between a command and a reserved word. -/
theorem wordMeaning_action {op : OpWord} (hopc : op.extractLsb' 4 2 = 0b01#2) (hk : OpWord.k op = false) :
    WordMeaning op := by
  have hdec : decode op = decodeAction (OpWord.s op) := by simp [decode, OpWord.opc, hopc, OpClass.ofOpc, hk]
  have hword : Command.ofWord op = (ActionKind.ofSelector (OpWord.s op)).map .act := by
    simp [Command.ofWord, OpWord.opc, hopc, OpClass.ofOpc, hk]
  have hres : OpWord.isReserved op = decide (ActionKind.ofSelector (OpWord.s op) = none) := by
    simp [OpWord.isReserved, OpWord.opc, hopc, hk, ActionKind.ofSelector_eq_none_iff]
  cases hsel : ActionKind.ofSelector (OpWord.s op) with
  | none =>
    refine .reserved hopc (by simp [hword, hsel]) (by simp [hres, hsel]) fun s => ?_
    rw [hdec, exec_decodeAction_reserved ((ActionKind.ofSelector_eq_none_iff _).1 hsel)]
  | some a =>
    refine .command (.act a) hopc (by simp [hword, hsel]) (by simp [hres, hsel]) fun s => ?_
    rw [hdec, ActionKind.eq_selector_of_ofSelector hsel, exec_decodeAction_selector]

/-- Under `OPC = 01`, `K = 1` the selector alone decides between a command and a reserved word. -/
theorem wordMeaning_movement {op : OpWord} (hopc : op.extractLsb' 4 2 = 0b01#2) (hk : OpWord.k op = true) :
    WordMeaning op := by
  have hdec : decode op = decodeMovement (OpWord.s op) := by simp [decode, OpWord.opc, hopc, OpClass.ofOpc, hk]
  have hword : Command.ofWord op = (DirectionKind.ofSelector (OpWord.s op)).map .mov := by
    simp [Command.ofWord, OpWord.opc, hopc, OpClass.ofOpc, hk]
  have hres : OpWord.isReserved op = decide (DirectionKind.ofSelector (OpWord.s op) = none) := by
    simp [OpWord.isReserved, OpWord.opc, hopc, hk, DirectionKind.ofSelector_eq_none_iff]
  cases hsel : DirectionKind.ofSelector (OpWord.s op) with
  | none =>
    refine .reserved hopc (by simp [hword, hsel]) (by simp [hres, hsel]) fun s => ?_
    rw [hdec, exec_decodeMovement_reserved ((DirectionKind.ofSelector_eq_none_iff _).1 hsel)]
  | some d =>
    refine .command (.mov d) hopc (by simp [hword, hsel]) (by simp [hres, hsel]) fun s => ?_
    rw [hdec, DirectionKind.eq_selector_of_ofSelector hsel, exec_decodeMovement_selector]

/-- Every operation word has one of the five meanings. -/
theorem wordMeaning (op : OpWord) : WordMeaning op := by
  have hclass : ∀ opc : BitVec 2, opc = 0b00#2 ∨ opc = 0b01#2 ∨ opc = 0b10#2 ∨ opc = 0b11#2 := by decide
  obtain hopc | hopc | hopc | hopc := hclass (op.extractLsb' 4 2)
  · have hdec : decode op = .nop (OpWord.low op) := by simp [decode, OpWord.opc, hopc, OpClass.ofOpc]
    exact .nop hopc fun s => by rw [hdec]; rfl
  · cases hk : OpWord.k op with
    | false => exact wordMeaning_action hopc hk
    | true => exact wordMeaning_movement hopc hk
  · have hdec : decode op = .take (OpWord.low op) := by simp [decode, OpWord.opc, hopc, OpClass.ofOpc]
    exact .take hopc fun s => hdec ▸ exec_take (OpWord.low op) s
  · have hdec : decode op = .reset (OpWord.low op) := by simp [decode, OpWord.opc, hopc, OpClass.ofOpc]
    exact .reset hopc fun s => hdec ▸ exec_reset (OpWord.low op) s

end Sys2Proof.Machine
end

section
/-! PROOFS. The items of the blocks a word can leave, and the invariants of R30 over each of them. -/

namespace Sys2Proof.Machine

@[simp] theorem Command.builtBlock_fb (c : Command) : c.builtBlock.fb = bufferOf (encodeCommand c) := rfl
@[simp] theorem Command.builtBlock_len (c : Command) : c.builtBlock.len = c.frameLen := rfl
@[simp] theorem Command.builtBlock_valid (c : Command) : c.builtBlock.valid = true := rfl
@[simp] theorem Command.builtBlock_err (c : Command) : c.builtBlock.err = false := rfl

@[simp] theorem Block.discarded_fb : Block.discarded.fb = Vector.replicate 10 0 := rfl
@[simp] theorem Block.discarded_len : Block.discarded.len = 0 := rfl
@[simp] theorem Block.discarded_valid : Block.discarded.valid = false := rfl
@[simp] theorem Block.discarded_err : Block.discarded.err = true := rfl

theorem Command.frameLen_toNat (c : Command) : c.frameLen.toNat = (encodeCommand c).length := by cases c <;> rfl

theorem encodeCommand_length_le (c : Command) : (encodeCommand c).length ≤ 10 := by
  cases c <;> simp [encodeCommand, actLen, movLen]

/-- The first `LEN` cells after a command are its frame, whole (R23). -/
@[simp] theorem Command.builtBlock_heldFrame (c : Command) : c.builtBlock.heldFrame = encodeCommand c := by
  rw [Block.heldFrame, builtBlock_fb, builtBlock_len, frameLen_toNat,
    bufferOf_toList _ (encodeCommand_length_le c), List.take_left]

theorem Command.builtBlock_inv (c : Command) : c.builtBlock.Inv where
  len_values := by cases c <;> simp [frameLen]
  tail_zero i hi := by
    rw [builtBlock_len, frameLen_toNat] at hi
    simp only [builtBlock_fb, bufferOf_get, List.getD_eq_getElem?_getD, List.getElem?_eq_none hi, Option.getD_none]
  action_held hlen := by
    cases c with
    | act a => exact ⟨a, (Command.act a).builtBlock_heldFrame, fun b hb =>
        encodeAction_injective (hb.symm.trans (Command.act a).builtBlock_heldFrame)⟩
    | mov d => exact absurd hlen (show (10 : Len) ≠ 6 by decide)
  movement_held hlen := by
    cases c with
    | act a => exact absurd hlen (show (6 : Len) ≠ 10 by decide)
    | mov d =>
      have hfb : (Command.mov d).builtBlock.fb.toList = encodeMovement d :=
        (bufferOf_toList _ (encodeCommand_length_le (.mov d))).trans (List.append_nil _)
      exact ⟨d, hfb, fun e he => encodeMovement_injective (he.symm.trans hfb)⟩
  valid_len _ := by cases c <;> simp [frameLen]
  err_empty herr := by simp at herr
  empty_invalid hlen := by cases c <;> simp [frameLen] at hlen

/-- A block with nothing in it meets the invariants, whatever `ERR` says. -/
theorem Block.inv_of_empty {b : Block} (hfb : b.fb = Vector.replicate 10 0) (hlen : b.len = 0)
    (hvalid : b.valid = false) : b.Inv where
  len_values := .inl hlen
  tail_zero i _ := by simp [hfb]
  action_held h := by simp [hlen] at h
  movement_held h := by simp [hlen] at h
  valid_len h := by simp [hvalid] at h
  err_empty _ := ⟨hvalid, hlen, fun i => by simp [hfb]⟩
  empty_invalid _ := hvalid

theorem Block.reset_inv : Block.reset.Inv := Block.inv_of_empty rfl rfl rfl

theorem Block.discarded_inv : Block.discarded.Inv := Block.inv_of_empty rfl rfl rfl

/-- A `TAKE` writes `VALID <- 0` only, and no invariant asks for `VALID = 1`. -/
theorem Block.Inv.flagTaken {b : Block} (h : b.Inv) : b.flagTaken.Inv where
  len_values := h.len_values
  tail_zero := h.tail_zero
  action_held := h.action_held
  movement_held := h.movement_held
  valid_len hv := by simp at hv
  err_empty he := ⟨rfl, (h.err_empty he).2⟩
  empty_invalid _ := rfl

theorem exec_word_keeps_inv {op : OpWord} {s t : State} (hinv : s.block.Inv)
    (hstep : exec (decode op) s = .next t) : t.block.Inv := by
  cases wordMeaning op with
  | nop _ hexec => cases (hexec s).symm.trans hstep; exact hinv
  | command c _ _ _ hexec => cases (hexec s).symm.trans hstep; exact c.builtBlock_inv
  | reserved _ _ _ hexec => cases (hexec s).symm.trans hstep; exact Block.discarded_inv
  | take _ hexec => cases (hexec s).symm.trans hstep; exact hinv.flagTaken
  | reset _ hexec => cases (hexec s).symm.trans hstep; exact Block.reset_inv

end Sys2Proof.Machine
end

section
/-! PROOFS. One step by the host's next event, and the inductions over runs, each packaged once. -/

namespace Sys2Proof.Machine

theorem step_idle {s : State} (h : s.host = []) : step s = .next s := by
  simp [step, State.accept_nil h]

theorem step_word {s : State} {op : OpWord} {rest : List HostEvent} (h : s.host = .word op :: rest) :
    step s = exec (decode op) ⟨s.block, rest, s.outcomes⟩ := by
  simp [step, State.accept_word h]

theorem step_pinReset {s : State} {rest : List HostEvent} (h : s.host = .pinReset :: rest) :
    step s = .next ⟨Block.reset, rest, s.outcomes⟩ := by
  simp [step, State.accept_pinReset h]

theorem step_contention {s : State} {rest : List HostEvent} (h : s.host = .contention :: rest) :
    step s = .fault .portContention := by
  simp [step, State.accept_contention h]

/-- Every step keeps I-a to I-g, whatever the host does next. -/
theorem step_keeps_inv {s t : State} (hinv : s.block.Inv) (hstep : step s = .next t) : t.block.Inv := by
  match hhost : s.host with
  | [] => cases (step_idle hhost).symm.trans hstep; exact hinv
  | .word op :: rest =>
    exact exec_word_keeps_inv (s := ⟨s.block, rest, s.outcomes⟩) hinv (step_word hhost ▸ hstep)
  | .pinReset :: rest => cases (step_pinReset hhost).symm.trans hstep; exact Block.reset_inv
  | .contention :: rest => cases (step_contention hhost).symm.trans hstep

/-- A run that completes has completed its first step. -/
theorem step_of_run_succ {n : Nat} {s t : State} (hrun : Host.Core.run Sys2Proof.core (n + 1) s = .next t) :
    ∃ u, step s = .next u ∧ Host.Core.run Sys2Proof.core n u = .next t := by
  cases hstep : Sys2Proof.core.step s with
  | next u => exact ⟨u, hstep, by simpa only [Host.Core.run, hstep] using hrun⟩
  | fault r => simp [Host.Core.run, hstep] at hrun
  | refused r => simp [Host.Core.run, hstep] at hrun

theorem run_keeps_inv (n : Nat) {s t : State} (hinv : s.block.Inv)
    (hrun : Host.Core.run Sys2Proof.core n s = .next t) : t.block.Inv := by
  induction n generalizing s with
  | zero => cases hrun; exact hinv
  | succ n ih =>
    obtain ⟨u, hstep, hrest⟩ := step_of_run_succ hrun
    exact ih (step_keeps_inv hinv hstep) hrest

theorem runWords_cons_of_exec {op : OpWord} {s t : State} (ops : List OpWord)
    (hstep : exec (decode op) s = .next t) : s.runWords (op :: ops) = t.runWords ops := by
  obtain ⟨c, o, hword⟩ := runWords_cons op ops s.block
  obtain ⟨hexec, hrun⟩ := hword s.host s.outcomes
  cases hexec.symm.trans hstep
  exact hrun

/-- A run completes, and what each word keeps between the block and an account of the words so far holds at its end. -/
theorem runWords_tracks {α : Type} {Rel : Block → α → Prop} {after : α → List OpWord → α}
    (hnil : ∀ a, after a [] = a) (hcons : ∀ a op ops, after a (op :: ops) = after (after a [op]) ops)
    (hword : ∀ {op s t a}, Rel s.block a → exec (decode op) s = .next t → Rel t.block (after a [op]))
    (ops : List OpWord) {s : State} {a : α} (h : Rel s.block a) :
    ∃ t, s.runWords ops = .next t ∧ Rel t.block (after a ops) := by
  induction ops generalizing s a with
  | nil => exact ⟨s, runWords_nil s, (hnil a).symm ▸ h⟩
  | cons op ops ih =>
    obtain ⟨b, o, hexec⟩ := exec_endStep (decode op) s
    rw [runWords_cons_of_exec ops hexec, hcons]
    exact ih (hword h hexec)

end Sys2Proof.Machine
end

section
/-! PROOFS. What every word leaves the flags at (R23, R24), said with the accounts of the words so far. -/

namespace Sys2Proof.Machine

theorem errAfter_cons (e : Bool) (op : OpWord) (ops : List OpWord) :
    errAfter e (op :: ops) = errAfter (errAfter e [op]) ops := rfl

theorem waitingAfter_cons (c : Option Command) (op : OpWord) (ops : List OpWord) :
    waitingAfter c (op :: ops) = waitingAfter (waitingAfter c [op]) ops := rfl

theorem exec_word_err {op : OpWord} {s t : State} (hstep : exec (decode op) s = .next t) :
    t.block.err = errAfter s.block.err [op] := by
  cases wordMeaning op with
  | nop hopc hexec => cases (hexec s).symm.trans hstep; simp [errAfter, hopc]
  | command c hopc _ hres hexec => cases (hexec s).symm.trans hstep; simp [errAfter, hopc, hres]
  | reserved hopc _ hres hexec => cases (hexec s).symm.trans hstep; simp [errAfter, hopc, hres]
  | take hopc hexec => cases (hexec s).symm.trans hstep; simp [errAfter, hopc]
  | reset hopc hexec => cases (hexec s).symm.trans hstep; simp [errAfter, hopc]

/-- `VALID` says whether a command's frame waits, and the buffer then holds that frame whole (R23). -/
def Block.Waits (b : Block) (waiting : Option Command) : Prop :=
  b.valid = waiting.isSome ∧ ∀ c, waiting = some c → b.heldFrame = encodeCommand c

theorem Command.builtBlock_waits (c : Command) : c.builtBlock.Waits (some c) :=
  ⟨rfl, fun _ h => Option.some.inj h ▸ c.builtBlock_heldFrame⟩

theorem Block.waits_none {b : Block} (h : b.valid = false) : b.Waits none := ⟨h, fun _ hc => nomatch hc⟩

theorem exec_word_waits {op : OpWord} {s t : State} {waiting : Option Command} (h : s.block.Waits waiting)
    (hstep : exec (decode op) s = .next t) : t.block.Waits (waitingAfter waiting [op]) := by
  cases wordMeaning op with
  | nop hopc hexec => cases (hexec s).symm.trans hstep; simpa [waitingAfter, hopc] using h
  | command c hopc hword _ hexec =>
    cases (hexec s).symm.trans hstep
    simpa [waitingAfter, hopc, hword] using c.builtBlock_waits
  | reserved hopc hword _ hexec =>
    cases (hexec s).symm.trans hstep
    simpa [waitingAfter, hopc, hword] using Block.waits_none Block.discarded_valid
  | take hopc hexec =>
    cases (hexec s).symm.trans hstep
    simpa [waitingAfter, hopc] using Block.waits_none s.block.flagTaken_valid
  | reset hopc hexec =>
    cases (hexec s).symm.trans hstep
    simpa [waitingAfter, hopc] using Block.waits_none Block.reset_valid

end Sys2Proof.Machine
end

section
/-! PROOFS. The obligations on the state: reset, the code tables, and each item over every operation. -/

namespace Sys2Proof.Machine

/-- Settles O1: `RESET` and a pin reset both leave `Block.reset`, whose items are zero by definition. -/
theorem resetLeavesEveryItemZero : Obligations.ResetLeavesEveryItemZero := by
  refine ⟨fun i => ?_, rfl, rfl, rfl, fun low s => ?_, fun s rest hhost => ?_⟩
  · simp
  · exact ⟨_, exec_reset low s, rfl⟩
  · exact ⟨_, step_pinReset hhost, rfl⟩

/-- Settles O9: injectivity is read off the tables, in which no byte stands twice. -/
theorem codeTables : Obligations.CodeTables :=
  ⟨map_opcodeByte_all, map_directionByte_all, fun _ _ h => opcodeByte_injective h,
    fun _ _ h => directionByte_injective h⟩

/-- Settles O29: both kinds of ENCODE word leave a block that names nothing of the state before, and `TAKE` reads the
block alone. -/
theorem encodeWordAloneDecides : Obligations.EncodeWordAloneDecides := by
  intro op hop
  cases wordMeaning op with
  | command c _ _ _ hexec =>
    exact ⟨c.builtBlock, .ok, c.builtBlock.flagTaken, c.builtBlock.takeOutcome, fun s =>
      ⟨hexec s, fun low => exec_take low _⟩⟩
  | reserved _ _ _ hexec =>
    exact ⟨.discarded, .unknownCommand, Block.discarded.flagTaken, Block.discarded.takeOutcome, fun s =>
      ⟨hexec s, fun low => exec_take low _⟩⟩
  | nop hopc | take hopc | reset hopc => simp [hopc] at hop

/-- Settles O34: the reset block meets the invariants and every step keeps them. -/
theorem everyRunMeetsInvariant : Obligations.EveryRunMeetsInvariant :=
  ⟨Block.reset_inv, fun _ n _ _ hrun => run_keeps_inv n Block.reset_inv hrun⟩

/-- Settles O36: the values of `LEN` over runs are invariant I-a. -/
theorem lenWrites : Obligations.LenWrites := by
  refine ⟨rfl, fun op s => ?_, fun ops t hrun => (run_keeps_inv ops.length Block.reset_inv hrun).len_values⟩
  cases wordMeaning op with
  | nop hopc hexec => exact ⟨_, hexec s, by simp [hopc]⟩
  | command c hopc hword _ hexec =>
    exact ⟨_, hexec s, by cases c <;> simp [hopc, hword, Command.frameLen]⟩
  | reserved hopc hword _ hexec => exact ⟨_, hexec s, by simp [hopc, hword]⟩
  | take hopc hexec => exact ⟨_, hexec s, by simp [hopc]⟩
  | reset hopc hexec => exact ⟨_, hexec s, by simp [hopc]⟩

/-- Settles O37, by induction over the words: each leaves `ERR` as the account of R24 says. -/
theorem errRecordsLastEncode : Obligations.ErrRecordsLastEncode :=
  ⟨rfl, fun ops _ => runWords_tracks (Rel := fun b e => b.err = e) errAfter_nil errAfter_cons
    (fun h hstep => h ▸ exec_word_err hstep) ops rfl⟩

/-- Settles O38, by induction over the words: each keeps `Block.Waits` for the command the account of R23 names. -/
theorem validMeansFrameWaits : Obligations.ValidMeansFrameWaits := by
  refine ⟨rfl, fun op s => ?_, fun ops => ?_⟩
  · cases wordMeaning op with
    | nop hopc hexec => exact ⟨_, hexec s, by simp [hopc]⟩
    | command c hopc hword _ hexec => exact ⟨_, hexec s, by simp [hopc, hword]⟩
    | reserved hopc hword _ hexec => exact ⟨_, hexec s, by simp [hopc, hword]⟩
    | take hopc hexec => exact ⟨_, hexec s, by simp [hopc]⟩
    | reset hopc hexec => exact ⟨_, hexec s, by simp [hopc]⟩
  · exact runWords_tracks waitingAfter_nil waitingAfter_cons exec_word_waits ops
      (Block.waits_none Block.reset_valid)

end Sys2Proof.Machine
end

section
/-! PROOFS. Running words one after another (R48): runs compose, and what a `TAKE` at the end of a run answers. -/

namespace Sys2Proof.Machine

theorem runWords_completes (ops : List OpWord) (s : State) : ∃ t, s.runWords ops = .next t := by
  induction ops generalizing s with
  | nil => exact ⟨s, runWords_nil s⟩
  | cons op ops ih =>
    obtain ⟨b, o, hexec⟩ := exec_endStep (decode op) s
    rw [runWords_cons_of_exec ops hexec]
    exact ih _

/-- What is presented later is run from the state the earlier words left. -/
theorem runWords_append {ops : List OpWord} {s t : State} (ops' : List OpWord) (hrun : s.runWords ops = .next t) :
    s.runWords (ops ++ ops') = t.runWords ops' := by
  induction ops generalizing s with
  | nil => cases hrun; rfl
  | cons op ops ih =>
    obtain ⟨b, o, hexec⟩ := exec_endStep (decode op) s
    rw [runWords_cons_of_exec ops hexec] at hrun
    rw [List.cons_append, runWords_cons_of_exec _ hexec]
    exact ih hrun

theorem exec_takeWord {op : OpWord} (hop : op.extractLsb' 4 2 = 0b10#2) (s : State) :
    exec (decode op) s = .next ⟨s.block.flagTaken, s.host, s.outcomes ++ [s.block.takeOutcome]⟩ := by
  cases wordMeaning op with
  | take _ hexec => exact hexec s
  | nop hopc | command _ hopc | reserved hopc | reset hopc => simp [hopc] at hop

theorem exec_commandWord (c : Command) (s : State) :
    exec (decode c.word) s = .next ⟨c.builtBlock, s.host, s.outcomes ++ [.ok]⟩ := by
  cases c with
  | act a =>
    have hdec : decode (Command.act a).word = decodeAction a.selector := by cases a <;> rfl
    rw [hdec, exec_decodeAction_selector]
  | mov d =>
    have hdec : decode (Command.mov d).word = decodeMovement d.selector := by cases d <;> rfl
    rw [hdec, exec_decodeMovement_selector]

/-- A `TAKE` at the end of a run adds the one outcome that the block it meets decides (R121). -/
theorem runWords_take_last {ops : List OpWord} {op : OpWord} {s t : State} (hrun : s.runWords ops = .next t)
    (hop : op.extractLsb' 4 2 = 0b10#2) :
    ∃ u, s.runWords (ops ++ [op]) = .next u ∧ u.outcomes = t.outcomes ++ [t.block.takeOutcome] := by
  rw [runWords_append [op] hrun, runWords_cons_of_exec [] (exec_takeWord hop t)]
  exact ⟨_, runWords_nil _, rfl⟩

end Sys2Proof.Machine
end

section
/-! PROOFS. Which words leave the waiting frame as it is (R23), and what a `TAKE` answers when it is known whether a
frame waits. -/

namespace Sys2Proof.Machine

theorem runWords_waits (ops : List OpWord) {s : State} {waiting : Option Command} (h : s.block.Waits waiting) :
    ∃ t, s.runWords ops = .next t ∧ t.block.Waits (waitingAfter waiting ops) :=
  runWords_tracks waitingAfter_nil waitingAfter_cons exec_word_waits ops h

theorem waitingAfter_nops {nops : List OpWord} (h : ∀ w ∈ nops, w.extractLsb' 4 2 = 0b00#2)
    (waiting : Option Command) : waitingAfter waiting nops = waiting := by
  induction nops with
  | nil => rfl
  | cons op ops ih =>
    obtain ⟨hop, hops⟩ := List.forall_mem_cons.1 h
    have hkeep : waitingAfter waiting [op] = waiting := by simp [waitingAfter, hop]
    rw [waitingAfter_cons, hkeep, ih hops]

/-- Only an ENCODE word makes a frame wait. -/
theorem waitingAfter_none_of_no_encode {ops : List OpWord} (h : ∀ w ∈ ops, w.extractLsb' 4 2 ≠ 0b01#2) :
    waitingAfter none ops = none := by
  induction ops with
  | nil => rfl
  | cons op ops ih =>
    obtain ⟨hop, hops⟩ := List.forall_mem_cons.1 h
    have hkeep : waitingAfter none [op] = none := by
      cases wordMeaning op with
      | nop hopc | take hopc | reset hopc => simp [waitingAfter, hopc]
      | command _ hopc | reserved hopc => exact absurd hopc hop
    rw [waitingAfter_cons, hkeep, ih hops]

theorem Block.Waits.takeOutcome_none {b : Block} (h : b.Waits none) : b.takeOutcome = .noFrame := by
  obtain ⟨hvalid, -⟩ := h
  simp [Block.takeOutcome, hvalid]

theorem Block.Waits.takeOutcome_some {b : Block} {c : Command} (h : b.Waits (some c)) :
    b.takeOutcome = .frame (encodeCommand c) := by
  obtain ⟨hvalid, hheld⟩ := h
  simp [Block.takeOutcome, hvalid, hheld c rfl]

end Sys2Proof.Machine
end

section
/-! PROOFS. Which meanings read nothing of the block (R32). -/

namespace Sys2Proof.Machine

/-- Every instruction but `NOP` and `TAKE` leaves a block and ends with an outcome of its own, from any state. -/
theorem exec_reads_no_block {i : Instr} (hnop : ∀ low, i ≠ .nop low) (htake : ∀ low, i ≠ .take low) :
    ∃ b o, ∀ s, exec i s = .next ⟨b, s.host, s.outcomes ++ [o]⟩ := by
  cases i with
  | nop low => exact absurd rfl (hnop low)
  | take low => exact absurd rfl (htake low)
  | reset low => exact ⟨Block.reset, .ok, exec_reset low⟩
  | reservedAct5 | reservedAct67 | reservedMov47 => exact ⟨Block.discarded, .unknownCommand, stepReserved_eq⟩
  | actDance => exact ⟨_, .ok, stepAct_eq .dance⟩
  | actMusic => exact ⟨_, .ok, stepAct_eq .music⟩
  | actStory => exact ⟨_, .ok, stepAct_eq .story⟩
  | actExercise => exact ⟨_, .ok, stepAct_eq .exercise⟩
  | actVoice => exact ⟨_, .ok, stepAct_eq .voice⟩
  | movForward => exact ⟨_, .ok, stepMov_eq .forward⟩
  | movLeft => exact ⟨_, .ok, stepMov_eq .left⟩
  | movBackward => exact ⟨_, .ok, stepMov_eq .backward⟩
  | movRight => exact ⟨_, .ok, stepMov_eq .right⟩

theorem exec_nop (low : BitVec 4) (s : State) :
    exec (.nop low) s = .next ⟨s.block, s.host, s.outcomes ++ [.ok]⟩ := rfl

/-- Executing an instruction other than `TAKE` a second time leaves the block as it is (R47). -/
theorem exec_idempotent {i : Instr} {s t u : State} (htake : ∀ low, i ≠ .take low) (hfirst : exec i s = .next t)
    (hsecond : exec i t = .next u) : u.block = t.block := by
  by_cases hnop : ∃ low, i = .nop low
  · obtain ⟨low, rfl⟩ := hnop
    cases (exec_nop low t).symm.trans hsecond
    rfl
  · obtain ⟨b, o, hexec⟩ := exec_reads_no_block (not_exists.1 hnop) htake
    cases (hexec s).symm.trans hfirst
    cases (hexec _).symm.trans hsecond
    rfl

end Sys2Proof.Machine
end

section
/-! PROOFS. The obligations on the frame buffer and its hand-over: idempotence and the order of words. -/

namespace Sys2Proof.Machine

/-- Settles O46: the first `TAKE` leaves no frame waiting, and words without an ENCODE word among them keep it so. -/
theorem frameTakenOnce : Obligations.FrameTakenOnce := by
  refine ⟨fun i s t u => exec_idempotent, fun low s t hstep => ?_, fun s op ops op' hop hop' hops => ?_⟩
  · cases (exec_take low s).symm.trans hstep
    rfl
  · obtain ⟨t, hrest, hwaits⟩ := runWords_waits ops
      (s := ⟨s.block.flagTaken, s.host, s.outcomes ++ [s.block.takeOutcome]⟩)
      (Block.waits_none s.block.flagTaken_valid)
    rw [waitingAfter_none_of_no_encode hops] at hwaits
    have hrun : s.runWords (op :: ops) = .next t := (runWords_cons_of_exec ops (exec_takeWord hop s)).trans hrest
    obtain ⟨u, hrunTake, hout⟩ := runWords_take_last hrun hop'
    exact ⟨t, u, hrun, hrunTake, hwaits.takeOutcome_none ▸ hout⟩

/-- Settles O47: runs compose, and from any state `before` leaves, the command's frame waits until the `TAKE`. -/
theorem sequentialEffect : Obligations.SequentialEffect := by
  refine ⟨fun ops ops' s => ?_, fun c before nops op s hnops hop => ?_⟩
  · obtain ⟨t, hrun⟩ := runWords_completes ops s
    exact ⟨t, hrun, runWords_append ops' hrun⟩
  · obtain ⟨r, hbefore⟩ := runWords_completes before s
    obtain ⟨t, hrest, hwaits⟩ := runWords_waits nops
      (s := ⟨c.builtBlock, r.host, r.outcomes ++ [.ok]⟩) c.builtBlock_waits
    rw [waitingAfter_nops hnops] at hwaits
    have hrun : s.runWords (before ++ c.word :: nops) = .next t :=
      (runWords_append _ hbefore).trans ((runWords_cons_of_exec nops (exec_commandWord c r)).trans hrest)
    obtain ⟨u, hrunTake, hout⟩ := runWords_take_last hrun hop
    exact ⟨t, u, hrun, hrunTake, hwaits.takeOutcome_some ▸ hout⟩

end Sys2Proof.Machine
end

section
/-! PROOFS. The operation word by its fields (R60, R61): the number each field spells, and the decoder and the command
a word spells, one equation for each class. -/

namespace Sys2Proof

/-- A class is a range of sixteen words. -/
theorem OpWord.toNat_div_of_opc {op : OpWord} {opc : BitVec 2} (h : OpWord.opc op = opc) :
    op.toNat / 16 = opc.toNat := by
  have hlt := op.isLt
  rw [← h, OpWord.opc, BitVec.extractLsb'_toNat, Nat.shiftRight_eq_div_pow]
  omega

theorem OpWord.low_eq_ofNat (op : OpWord) : OpWord.low op = BitVec.ofNat 4 op.toNat := rfl

theorem OpWord.s_eq_ofNat (op : OpWord) : OpWord.s op = BitVec.ofNat 3 op.toNat := rfl

theorem OpWord.k_eq_decide (op : OpWord) : OpWord.k op = decide (8 ≤ op.toNat % 16) := by
  revert op; decide

theorem decode_of_opc_nop {op : OpWord} (h : OpWord.opc op = 0b00#2) : decode op = .nop (OpWord.low op) := by
  simp [decode, h, OpClass.ofOpc]

theorem decode_of_opc_encode {op : OpWord} (h : OpWord.opc op = 0b01#2) :
    decode op = if OpWord.k op then decodeMovement (OpWord.s op) else decodeAction (OpWord.s op) := by
  simp [decode, h, OpClass.ofOpc]

theorem decode_of_opc_take {op : OpWord} (h : OpWord.opc op = 0b10#2) : decode op = .take (OpWord.low op) := by
  simp [decode, h, OpClass.ofOpc]

theorem decode_of_opc_reset {op : OpWord} (h : OpWord.opc op = 0b11#2) : decode op = .reset (OpWord.low op) := by
  simp [decode, h, OpClass.ofOpc]

/-- The fields of a word of class ENCODE are the ones it is put together from. -/
theorem OpWord.fields_encode (k : BitVec 1) (s : BitVec 3) :
    OpWord.opc (0b01#2 ++ k ++ s) = 0b01#2 ∧ OpWord.k (0b01#2 ++ k ++ s) = (k == 0b1#1) ∧
      OpWord.s (0b01#2 ++ k ++ s) = s := by
  revert k s; decide

namespace Machine

theorem Command.ofWord_encode (k : BitVec 1) (s : BitVec 3) :
    Command.ofWord (0b01#2 ++ k ++ s) =
      if k == 0b1#1 then (DirectionKind.ofSelector s).map .mov else (ActionKind.ofSelector s).map .act := by
  obtain ⟨hopc, hk, hs⟩ := OpWord.fields_encode k s
  simp only [Command.ofWord, hopc, hk, hs]
  rfl

end Machine
end Sys2Proof
end

section
/-! PROOFS. Which words act alike (R72): without class ENCODE, those of one class. -/

namespace Sys2Proof.Machine

theorem exec_nopWord {op : OpWord} (hop : op.extractLsb' 4 2 = 0b00#2) (s : State) :
    exec (decode op) s = .next ⟨s.block, s.host, s.outcomes ++ [.ok]⟩ := by
  rw [decode_of_opc_nop hop, exec_nop]

theorem exec_resetWord {op : OpWord} (hop : op.extractLsb' 4 2 = 0b11#2) (s : State) :
    exec (decode op) s = .next ⟨Block.reset, s.host, s.outcomes ++ [.ok]⟩ := by
  rw [decode_of_opc_reset hop, exec_reset]

/-- Outside class ENCODE the class alone decides what a word does. -/
theorem exec_congr_of_opc {op op' : OpWord} (hclass : op'.extractLsb' 4 2 = op.extractLsb' 4 2)
    (hop : op.extractLsb' 4 2 ≠ 0b01#2) (s : State) : exec (decode op) s = exec (decode op') s := by
  cases wordMeaning op with
  | nop hopc hexec => rw [hexec, exec_nopWord (hclass.trans hopc)]
  | take hopc hexec => rw [hexec, exec_takeWord (hclass.trans hopc)]
  | reset hopc hexec => rw [hexec, exec_resetWord (hclass.trans hopc)]
  | command _ hopc | reserved hopc => exact absurd hopc hop

theorem isReserved_of_opc_ne {op : OpWord} (hop : op.extractLsb' 4 2 ≠ 0b01#2) : OpWord.isReserved op = false := by
  simp [OpWord.isReserved, OpWord.opc, hop]

/-- The canonical spelling of R64 keeps the class. -/
theorem opc_canonical (op : OpWord) : (op &&& 0b110000#6).extractLsb' 4 2 = op.extractLsb' 4 2 := by
  revert op; decide

end Sys2Proof.Machine
end

section
/-! PROOFS. The frames themselves: a checksum of bytes is their sum, and what the bytes of a legal frame are (R69,
R74). -/

namespace Sys2Proof.Machine

@[simp] theorem checksum8_nil : checksum8 [] = 0 := rfl

@[simp] theorem checksum8_cons (b : Byte) (s : List Byte) : checksum8 (b :: s) = b + checksum8 s := by
  apply BitVec.eq_of_toNat_eq
  simp [checksum8_toNat]

theorem Command.mem_all (c : Command) : c ∈ Command.all := by
  cases c with
  | act a => exact List.mem_append_left _ (List.mem_map_of_mem a.mem_all)
  | mov d => exact List.mem_append_right _ (List.mem_map_of_mem d.mem_all)

theorem mem_legalFrames_iff {f : List Byte} : f ∈ legalFrames ↔ ∃ c : Command, encodeCommand c = f := by
  simp [legalFrames, Command.mem_all]

theorem opcodeByte_le (a : ActionKind) : opcodeByte a ≤ 0x04 := by cases a <;> decide

theorem directionByte_mem (d : DirectionKind) : directionByte d ∈ [(0x01 : Byte), 0x03, 0x05, 0x07] := by
  cases d <;> decide

/-- Byte 4 of an action frame is the checksum of its span (R69). -/
theorem encodeAction_checksum (a : ActionKind) :
    (encodeAction a)[4]? = some (checksum8 (spanOf actCkSpan (encodeAction a))) := rfl

/-- Byte 9 of a movement frame is the checksum of its span (R69). -/
theorem encodeMovement_checksum (d : DirectionKind) :
    (encodeMovement d)[9]? = some (checksum8 (spanOf movCkSpan (encodeMovement d))) := rfl

end Sys2Proof.Machine
end

section
/-! PROOFS. Where a frame that is handed over comes from (R74, R121): the buffer of a block with `VALID = 1`, which
under the invariants of R30 holds a legal frame. -/

namespace Sys2Proof.Machine

theorem Block.Inv.heldFrame_mem_legalFrames {b : Block} (hinv : b.Inv) (hvalid : b.valid = true) :
    b.heldFrame ∈ legalFrames := by
  rw [mem_legalFrames_iff]
  obtain hlen | hlen := hinv.valid_len hvalid
  · obtain ⟨a, hheld, -⟩ := hinv.action_held hlen
    exact ⟨.act a, by rw [Block.heldFrame, hlen]; exact hheld.symm⟩
  · obtain ⟨d, hheld, -⟩ := hinv.movement_held hlen
    exact ⟨.mov d, by rw [Block.heldFrame, hlen, hheld]; rfl⟩

theorem frame_of_exec_word {op : OpWord} {s t : State} {f : List Byte} (hstep : exec (decode op) s = .next t)
    (hf : .frame f ∈ t.outcomes) :
    .frame f ∈ s.outcomes ∨ (s.block.valid = true ∧ f = s.block.heldFrame) := by
  cases wordMeaning op with
  | take _ hexec =>
    cases (hexec s).symm.trans hstep
    cases hvalid : s.block.valid <;> simpa [Block.takeOutcome, hvalid] using hf
  | nop _ hexec | command _ _ _ _ hexec | reserved _ _ _ hexec | reset _ hexec =>
    cases (hexec s).symm.trans hstep
    exact .inl (by simpa using hf)

/-- A step hands over nothing but the held frame of a block with `VALID = 1`, whatever the host does next. -/
theorem frame_of_step {s t : State} {f : List Byte} (hstep : step s = .next t) (hf : .frame f ∈ t.outcomes) :
    .frame f ∈ s.outcomes ∨ (s.block.valid = true ∧ f = s.block.heldFrame) := by
  match hhost : s.host with
  | [] => cases (step_idle hhost).symm.trans hstep; exact .inl hf
  | .word op :: rest => exact frame_of_exec_word (s := ⟨s.block, rest, s.outcomes⟩) (step_word hhost ▸ hstep) hf
  | .pinReset :: rest => cases (step_pinReset hhost).symm.trans hstep; exact .inl hf
  | .contention :: rest => cases (step_contention hhost).symm.trans hstep

theorem step_keeps_onlyLegalFrames {s t : State} (hinv : s.block.Inv) (hlegal : s.OnlyLegalFrames)
    (hstep : step s = .next t) : t.OnlyLegalFrames := by
  intro f hf
  obtain hf | ⟨hvalid, rfl⟩ := frame_of_step hstep hf
  · exact hlegal f hf
  · exact hinv.heldFrame_mem_legalFrames hvalid

theorem run_keeps_onlyLegalFrames (n : Nat) {s t : State} (hinv : s.block.Inv) (hlegal : s.OnlyLegalFrames)
    (hrun : Host.Core.run Sys2Proof.core n s = .next t) : t.OnlyLegalFrames := by
  induction n generalizing s with
  | zero => cases hrun; exact hlegal
  | succ n ih =>
    obtain ⟨u, hstep, hrest⟩ := step_of_run_succ hrun
    exact ih (step_keeps_inv hinv hstep) (step_keeps_onlyLegalFrames hinv hlegal hstep) hrest

/-- A command's word and a `TAKE` hand the command's frame over, from any state. -/
theorem runWords_send (c : Command) (s : State) :
    ∃ t, s.runWords c.sendWords = .next t ∧ t.outcomes = s.outcomes ++ [.ok] ++ [.frame (encodeCommand c)] := by
  have hbuilt := runWords_cons_of_exec [] (exec_commandWord c s)
  obtain ⟨t, hrun, hout⟩ := runWords_take_last (op := takeWord) hbuilt (by decide)
  exact ⟨t, hrun, c.builtBlock_waits.takeOutcome_some ▸ hout⟩

end Sys2Proof.Machine
end

section
/-! PROOFS. The obligations on the encoding: the operation word's map, fields and ignored bits, the checksum spans, and
the set of frames. -/

namespace Sys2Proof.Machine

/-- Settles O3: each class fixes a range of sixteen words; within class ENCODE the sixteen rows are the two decoders by
selector. -/
theorem operationWordMap : Obligations.OperationWordMap := by
  intro op
  cases wordMeaning op with
  | nop hopc =>
    have hrange : op.toNat / 16 = 0 := OpWord.toNat_div_of_opc hopc
    rw [decode_of_opc_nop hopc, if_pos (by omega), OpWord.low_eq_ofNat]
  | take hopc =>
    have hrange : op.toNat / 16 = 2 := OpWord.toNat_div_of_opc hopc
    rw [decode_of_opc_take hopc, OpWord.low_eq_ofNat]
    simp (disch := omega) only [if_neg, if_pos]
  | reset hopc =>
    have hrange : op.toNat / 16 = 3 := OpWord.toNat_div_of_opc hopc
    rw [decode_of_opc_reset hopc, OpWord.low_eq_ofNat]
    simp (disch := omega) only [if_neg]
  | command _ hopc | reserved hopc =>
    have hrange : op.toNat / 16 = 1 := OpWord.toNat_div_of_opc hopc
    have hlo : 0x10 ≤ op.toNat := by omega
    have hhi : op.toNat ≤ 0x1F := by omega
    rw [decode_of_opc_encode hopc, OpWord.k_eq_decide, OpWord.s_eq_ofNat]
    generalize op.toNat = n at hlo hhi
    interval_cases n <;> rfl

/-- Settles O7: the canonical spelling is of the word's own class. -/
theorem lowBitsIgnored : Obligations.LowBitsIgnored := fun op hop =>
  ⟨isReserved_of_opc_ne hop, exec_congr_of_opc (opc_canonical op) hop⟩

/-- Settles O8: a word of class ENCODE spells the member its selector counts to. -/
theorem selectorIsOrdinal : Obligations.SelectorIsOrdinal :=
  ⟨Command.ofWord_encode 0b0#1, Command.ofWord_encode 0b1#1, rfl, rfl⟩

/-- Settles O13: the bytes of both spans are read off the layouts, and the checksum of a sequence is its sum. -/
theorem checksumSpans : Obligations.ChecksumSpans := by
  refine ⟨fun a => ⟨_, _, rfl, rfl, rfl, ?_⟩, fun d => ⟨_, _, _, _, _, _, rfl, rfl, rfl, rfl, rfl, rfl, rfl, ?_⟩⟩
  · exact (encodeAction_checksum a).trans (by simp [spanOf, encodeAction, actCkSpan])
  · exact (encodeMovement_checksum d).trans (by simp [spanOf, encodeMovement, movCkSpan, add_assoc])

/-- Settles O35: a run from reset keeps the invariants, so it hands over legal frames only; and each legal frame is a
command's, which its word and a `TAKE` hand over. -/
theorem exactlyNineFrames : Obligations.ExactlyNineFrames := by
  refine ⟨fun f => ⟨fun ⟨ops, t, hrun, hf⟩ => ?_, fun hf => ?_⟩, fun f hf => ?_⟩
  · have hnone : (State.reset.presentAll ops).OnlyLegalFrames := fun f hf => by simp at hf
    exact run_keeps_onlyLegalFrames ops.length Block.reset_inv hnone hrun f hf
  · obtain ⟨c, rfl⟩ := mem_legalFrames_iff.1 hf
    obtain ⟨t, hrun, hout⟩ := runWords_send c State.reset
    exact ⟨c.sendWords, t, hrun, by simp [hout]⟩
  · obtain ⟨c, rfl⟩ := mem_legalFrames_iff.1 hf
    cases c with
    | act a =>
      exact ⟨List.cons_ne_nil _ _, .inl ⟨rfl, ⟨_, rfl, opcodeByte_le a⟩, encodeAction_checksum a⟩⟩
    | mov d =>
      exact ⟨List.cons_ne_nil _ _, .inr ⟨rfl, ⟨_, rfl, directionByte_mem d⟩, encodeMovement_checksum d⟩⟩

end Sys2Proof.Machine
end

section
/-! PROOFS. The laws of the checksum (R90 to R93): as a byte it is the sum of its bytes in the ring of bytes, and a true
sum below 256 is not reduced. -/

namespace Sys2Proof.Machine

/-- The checksum is the 8-bit sum of its bytes; the library's laws of sums are the laws of R93. -/
theorem checksum8_eq_sum (s : List Byte) : checksum8 s = s.sum := by
  induction s with
  | nil => rfl
  | cons b s ih => rw [checksum8_cons, List.sum_cons, ih]

theorem checksum8_append (s t : List Byte) : checksum8 (s ++ t) = checksum8 s + checksum8 t := by
  simp only [checksum8_eq_sum, List.sum_append]

theorem checksum8_perm {s t : List Byte} (h : s.Perm t) : checksum8 s = checksum8 t := by
  simp only [checksum8_eq_sum, h.sum_eq]

theorem checksum8_zero_cons (t : List Byte) : checksum8 (0 :: t) = checksum8 t := by
  rw [checksum8_cons, zero_add]

theorem checksumRunning_eq_checksum8 (s : List Byte) : checksumRunning s = checksum8 s := by
  rw [checksum8_eq_sum, List.sum_eq_foldl, checksumRunning]

/-- The reduction of R90 changes nothing below the modulus. -/
theorem checksum8_toNat_of_lt {s : List Byte} (h : trueSum s < 256) : (checksum8 s).toNat = trueSum s :=
  (checksum8_toNat s).trans (Nat.mod_eq_of_lt h)

theorem directionByte_le (d : DirectionKind) : directionByte d ≤ 0x07 := by cases d <;> decide

theorem trueSum_span_encodeAction (a : ActionKind) :
    trueSum (spanOf actCkSpan (encodeAction a)) = (opcodeByte a).toNat := rfl

theorem trueSum_span_encodeMovement (d : DirectionKind) :
    trueSum (spanOf movCkSpan (encodeMovement d)) = 5 + (directionByte d).toNat := by
  simp [spanOf, encodeMovement, movCkSpan, movB2, movB3, movB5, movB6, movB7]

/-- Byte 8 of a movement frame is zero, so one more byte in the span leaves the checksum (R93). -/
theorem checksum8_span_to_byte8 (d : DirectionKind) :
    checksum8 (spanOf (2, 7) (encodeMovement d)) = checksum8 (spanOf movCkSpan (encodeMovement d)) := by
  have hspan : spanOf (2, 7) (encodeMovement d) = spanOf movCkSpan (encodeMovement d) ++ [0] := rfl
  rw [hspan, checksum8_append, checksum8_zero_cons, checksum8_nil, add_zero]

theorem trueSum_action_le (a : ActionKind) : trueSum (spanOf actCkSpan (encodeAction a)) ≤ 4 := by
  rw [trueSum_span_encodeAction]
  exact opcodeByte_le a

theorem trueSum_movement_le (d : DirectionKind) : trueSum (spanOf movCkSpan (encodeMovement d)) ≤ 12 := by
  rw [trueSum_span_encodeMovement]
  exact Nat.add_le_add_left (directionByte_le d) 5

/-- The movement span laid over an action frame reaches past its checksum (at most 4) to the terminator `0xAA`. -/
theorem trueSum_movSpan_encodeAction_lt (a : ActionKind) :
    trueSum (spanOf movCkSpan (encodeAction a)) < 256 := by
  have hsplit : spanOf movCkSpan (encodeAction a) =
      spanOf actCkSpan (encodeAction a) ++ [checksum8 (spanOf actCkSpan (encodeAction a)), actB5] := rfl
  have hle := trueSum_action_le a
  have hck := checksum8_toNat_of_lt (hle.trans_lt (by decide))
  have hterm : actB5.toNat = 170 := rfl
  rw [hsplit, trueSum_append, trueSum_cons, trueSum_cons, trueSum_nil, hck]
  omega

theorem trueSum_span_lt_of_legal {f : List Byte} (hf : f ∈ legalFrames) {span : Nat × Nat}
    (hspan : span ∈ [actCkSpan, movCkSpan]) : trueSum (spanOf span f) < 256 := by
  obtain ⟨c, rfl⟩ := mem_legalFrames_iff.1 hf
  obtain rfl | rfl : span = actCkSpan ∨ span = movCkSpan := by simpa using hspan
  · cases c with
    | act a => exact (trueSum_action_le a).trans_lt (by decide)
    | mov d =>
      have hconst : spanOf actCkSpan (encodeMovement d) = [movB2, movB3] := rfl
      rw [encodeCommand, hconst]
      decide
  · cases c with
    | act a => exact trueSum_movSpan_encodeAction_lt a
    | mov d => exact (trueSum_movement_le d).trans_lt (by decide)

/-- Settles O11: the checksum is the 8-bit sum, which the running accumulator computes from zero. -/
theorem checksumIsRunningSum : Obligations.ChecksumIsRunningSum := fun s =>
  ⟨checksum8_toNat s, checksumRunning_eq_checksum8 s⟩

/-- Settles O12: the laws of a sum of bytes, and a bound below 256 on the true sums over the legal frames. -/
theorem checksumLaws : Obligations.ChecksumLaws := by
  refine ⟨checksum8_nil, fun b => ?_, checksum8_append, fun _ _ => checksum8_perm, fun s t => ?_,
    checksum8_span_to_byte8, fun s => ?_, trueSum_action_le, trueSum_movement_le,
    fun f hf span hspan => checksum8_toNat_of_lt (trueSum_span_lt_of_legal hf hspan)⟩
  · rw [checksum8_cons, checksum8_nil, add_zero]
  · rw [checksum8_append, checksum8_append, checksum8_zero_cons]
  · exact Nat.le_of_lt_succ (checksum8 s).isLt

end Sys2Proof.Machine
end

section
/-! PROOFS. The action frames (R100 to R105): an action's frame and the whole next state of its `ACT` word, written out
from its opcode byte alone. -/

namespace Sys2Proof.Machine

/-- Byte 3 is zero, so the checksum repeats the opcode byte (R100). -/
theorem encodeAction_bytes (a : ActionKind) :
    encodeAction a = [0xB3, 0x02, opcodeByte a, 0x00, opcodeByte a, 0xAA] := by
  have hck : checksum8 [opcodeByte a, 0x00] = opcodeByte a := by
    rw [checksum8_cons, checksum8_zero_cons, checksum8_nil, add_zero]
  calc
    encodeAction a = [0xB3, 0x02, opcodeByte a, 0x00, checksum8 [opcodeByte a, 0x00], 0xAA] := rfl
    _ = [0xB3, 0x02, opcodeByte a, 0x00, opcodeByte a, 0xAA] := by rw [hck]

/-- Six bytes of frame leave four cells behind it, all zero (R21). -/
theorem bufferOf_encodeAction_toList (a : ActionKind) :
    (bufferOf (encodeAction a)).toList = encodeAction a ++ [0x00, 0x00, 0x00, 0x00] :=
  bufferOf_toList _ (encodeCommand_length_le (.act a))

theorem bufferOf_encodeAction (a : ActionKind) :
    bufferOf (encodeAction a) =
      #v[0xB3, 0x02, opcodeByte a, 0x00, opcodeByte a, 0xAA, 0x00, 0x00, 0x00, 0x00] := by
  rw [← Vector.toList_inj, bufferOf_encodeAction_toList, encodeAction_bytes]
  rfl

theorem stepAct_bytes (a : ActionKind) (s : State) :
    stepAct a s = .next
      ⟨⟨#v[0xB3, 0x02, opcodeByte a, 0x00, opcodeByte a, 0xAA, 0x00, 0x00, 0x00, 0x00], 6, true, false⟩,
        s.host, s.outcomes ++ [.ok]⟩ := by
  rw [stepAct_eq, bufferOf_encodeAction]

/-- Settles O14: the layout holds as defined, and the word of every action builds its frame from any state. -/
theorem encodeActionStep : Obligations.EncodeActionStep := by
  refine ⟨fun a => rfl, fun a => ⟨encodeAction_length a, ?_⟩, fun _ _ h => encodeAction_injective h, fun a s => ?_⟩
  · rw [encodeAction_bytes]
    rfl
  · exact ⟨_, exec_commandWord (.act a) s, bufferOf_encodeAction_toList a, rfl, rfl, rfl, rfl, rfl⟩

/-- Settles O16: the opcode byte of `Dance` is `0x02`. -/
theorem actDance : Obligations.ActDance :=
  ⟨rfl, encodeAction_bytes .dance, stepAct_bytes .dance⟩

/-- Settles O17: the opcode byte of `Music` is `0x03`. -/
theorem actMusic : Obligations.ActMusic :=
  ⟨rfl, encodeAction_bytes .music, stepAct_bytes .music⟩

/-- Settles O18: the opcode byte of `Story` is `0x01`. -/
theorem actStory : Obligations.ActStory :=
  ⟨rfl, encodeAction_bytes .story, stepAct_bytes .story⟩

/-- Settles O19: the opcode byte of `Exercise` is `0x00`, and so is its checksum. -/
theorem actExercise : Obligations.ActExercise :=
  ⟨rfl, encodeAction_bytes .exercise, stepAct_bytes .exercise⟩

/-- Settles O20: the opcode byte of `Voice` is `0x04`; its selector 4 is the last that is not reserved. -/
theorem actVoice : Obligations.ActVoice :=
  ⟨rfl, rfl, encodeAction_bytes .voice, stepAct_bytes .voice⟩

end Sys2Proof.Machine
end

section
/-! PROOFS. The movement frames (R110 to R114): a direction's frame and the whole next state of its `MOV` word, written
out from its direction byte alone. -/

namespace Sys2Proof.Machine

/-- The constant `0x05` and the direction byte are the only bytes of the span that are not zero (R110). -/
theorem encodeMovement_bytes (d : DirectionKind) :
    encodeMovement d =
      [0xB6, 0x06, 0x00, 0x05, directionByte d, 0x00, 0x00, 0x00, 0x00, 0x05 + directionByte d] := by
  have hck : checksum8 [0x00, 0x05, directionByte d, 0x00, 0x00, 0x00] = 0x05 + directionByte d := by
    simp only [checksum8_cons, checksum8_nil, zero_add, add_zero]
  calc
    encodeMovement d = [0xB6, 0x06, 0x00, 0x05, directionByte d, 0x00, 0x00, 0x00, 0x00,
      checksum8 [0x00, 0x05, directionByte d, 0x00, 0x00, 0x00]] := rfl
    _ = _ := by rw [hck]

theorem encodeMovement_byte9 (d : DirectionKind) :
    (encodeMovement d)[9]? = some (0x05 + directionByte d) := by
  rw [encodeMovement_bytes]
  rfl

/-- One direction's frame becomes another's by writing its bytes 4 and 9 (R110). -/
theorem encodeMovement_eq_set (d e : DirectionKind) :
    encodeMovement d = ((encodeMovement e).set 4 (directionByte d)).set 9 (0x05 + directionByte d) := by
  rw [encodeMovement_bytes, encodeMovement_bytes]
  rfl

theorem encodeMovement_getElem?_eq (d e : DirectionKind) (i : Nat) (h4 : i ≠ 4) (h9 : i ≠ 9) :
    (encodeMovement d)[i]? = (encodeMovement e)[i]? := by
  rw [encodeMovement_eq_set d e, List.getElem?_set_ne h9.symm, List.getElem?_set_ne h4.symm]

/-- A movement frame fills the buffer: no cell is left behind it (R21). -/
theorem bufferOf_encodeMovement_toList (d : DirectionKind) : (bufferOf (encodeMovement d)).toList = encodeMovement d :=
  bufferOf_toList _ (encodeCommand_length_le (.mov d))

theorem bufferOf_encodeMovement (d : DirectionKind) :
    bufferOf (encodeMovement d) =
      #v[0xB6, 0x06, 0x00, 0x05, directionByte d, 0x00, 0x00, 0x00, 0x00, 0x05 + directionByte d] := by
  rw [← Vector.toList_inj, bufferOf_encodeMovement_toList, encodeMovement_bytes]
  rfl

theorem stepMov_bytes (d : DirectionKind) (s : State) :
    stepMov d s = .next
      ⟨⟨#v[0xB6, 0x06, 0x00, 0x05, directionByte d, 0x00, 0x00, 0x00, 0x00, 0x05 + directionByte d],
        10, true, false⟩, s.host, s.outcomes ++ [.ok]⟩ := by
  rw [stepMov_eq, bufferOf_encodeMovement]

theorem checksum8_le_of_trueSum_le {s : List Byte} {b : Byte} (h : trueSum s ≤ b.toNat) : checksum8 s ≤ b := by
  rw [BitVec.le_def, checksum8_toNat]
  exact (Nat.mod_le _ _).trans h

/-- The largest true sums over the spans are 4 for an action and 12 for a movement (R93). -/
theorem Command.checksum_le (c : Command) : ∃ ck, (encodeCommand c)[c.checksumIdx]? = some ck ∧ ck ≤ 0x0C := by
  cases c with
  | act a =>
    exact ⟨_, encodeAction_checksum a, checksum8_le_of_trueSum_le ((trueSum_action_le a).trans (by decide))⟩
  | mov d => exact ⟨_, encodeMovement_checksum d, checksum8_le_of_trueSum_le (trueSum_movement_le d)⟩

/-- Settles O15: the layout holds as defined, its checksum is 5 plus the direction byte, and the word of every direction
builds its frame from any state. -/
theorem encodeMovementStep : Obligations.EncodeMovementStep := by
  refine ⟨fun d => rfl, fun d => ⟨encodeMovement_length d, encodeMovement_byte9 d⟩, ?_,
    fun _ _ h => encodeMovement_injective h, encodeMovement_getElem?_eq, fun d s => ?_⟩
  · simp only [encodeMovement_byte9]
    rfl
  · exact ⟨_, exec_commandWord (.mov d) s, bufferOf_encodeMovement_toList d, rfl, rfl, rfl, rfl, rfl⟩

/-- Settles O21: the direction byte of `Forward` is `0x03`. -/
theorem movForward : Obligations.MovForward :=
  ⟨rfl, encodeMovement_bytes .forward, stepMov_bytes .forward⟩

/-- Settles O22: the direction byte of `Left` is `0x05`. -/
theorem movLeft : Obligations.MovLeft :=
  ⟨rfl, encodeMovement_bytes .left, stepMov_bytes .left⟩

/-- Settles O23: the direction byte of `Backward` is `0x07`, and its checksum bounds every command's. -/
theorem movBackward : Obligations.MovBackward :=
  ⟨rfl, encodeMovement_bytes .backward, Command.checksum_le, stepMov_bytes .backward⟩

/-- Settles O24: the direction byte of `Right` is `0x01`; its selector 3 is the last that is not reserved. -/
theorem movRight : Obligations.MovRight :=
  ⟨rfl, rfl, encodeMovement_bytes .right, stepMov_bytes .right⟩

end Sys2Proof.Machine
end

section
/-! PROOFS. The words of an operation class and the reserved words, each as numbers and as rows of the decoder (R61,
R64, R71). -/

namespace Sys2Proof

/-- The classes cut the 64 words into four ranges of sixteen. -/
theorem OpWord.opc_eq_iff (op : OpWord) (opc : BitVec 2) : OpWord.opc op = opc ↔ op.toNat / 16 = opc.toNat := by
  rw [OpWord.toNat_div_of_opc rfl, BitVec.toNat_inj]

theorem OpWord.s_toNat (op : OpWord) : (OpWord.s op).toNat = op.toNat % 8 := BitVec.toNat_ofNat op.toNat 3

/-- The class an instruction's words belong to, by its `OPC` (R61). -/
def Instr.opc : Instr → BitVec 2
  | .nop _ => 0b00#2
  | .take _ => 0b10#2
  | .reset _ => 0b11#2
  | _ => 0b01#2

theorem opc_decodeAction (s : BitVec 3) : (decodeAction s).opc = 0b01#2 := by revert s; decide

theorem opc_decodeMovement (s : BitVec 3) : (decodeMovement s).opc = 0b01#2 := by revert s; decide

/-- The decoder keeps the class. -/
theorem opc_decode (op : OpWord) : (decode op).opc = OpWord.opc op := by
  cases Machine.wordMeaning op with
  | nop hopc => rw [decode_of_opc_nop hopc]; exact hopc.symm
  | command _ hopc | reserved hopc =>
    rw [decode_of_opc_encode hopc, OpWord.opc, hopc]
    split
    · exact opc_decodeMovement _
    · exact opc_decodeAction _
  | take hopc => rw [decode_of_opc_take hopc]; exact hopc.symm
  | reset hopc => rw [decode_of_opc_reset hopc]; exact hopc.symm

theorem opc_decode_eq_iff (op : OpWord) (opc : BitVec 2) : (decode op).opc = opc ↔ op.toNat / 16 = opc.toNat := by
  rw [opc_decode, OpWord.opc_eq_iff]

theorem decode_eq_nop_iff (op : OpWord) : (∃ low, decode op = .nop low) ↔ op.toNat ≤ 0x0F := calc
  (∃ low, decode op = .nop low) ↔ (decode op).opc = 0b00#2 := by cases decode op <;> simp [Instr.opc]
  _ ↔ op.toNat / 16 = 0 := opc_decode_eq_iff op 0b00#2
  _ ↔ op.toNat ≤ 0x0F := by omega

theorem decode_eq_take_iff (op : OpWord) :
    (∃ low, decode op = .take low) ↔ 0x20 ≤ op.toNat ∧ op.toNat ≤ 0x2F := calc
  (∃ low, decode op = .take low) ↔ (decode op).opc = 0b10#2 := by cases decode op <;> simp [Instr.opc]
  _ ↔ op.toNat / 16 = 2 := opc_decode_eq_iff op 0b10#2
  _ ↔ 0x20 ≤ op.toNat ∧ op.toNat ≤ 0x2F := by omega

theorem decode_eq_reset_iff (op : OpWord) : (∃ low, decode op = .reset low) ↔ 0x30 ≤ op.toNat := calc
  (∃ low, decode op = .reset low) ↔ (decode op).opc = 0b11#2 := by cases decode op <;> simp [Instr.opc]
  _ ↔ op.toNat / 16 = 3 := opc_decode_eq_iff op 0b11#2
  _ ↔ 0x30 ≤ op.toNat := by have hlt := op.isLt; omega

/-- The three rows of the decoder that hold the reserved words (R71). -/
def Instr.IsReservedRow (i : Instr) : Prop :=
  i = .reservedAct5 ∨ (∃ sel, i = .reservedAct67 sel) ∨ ∃ sel, i = .reservedMov47 sel

theorem Instr.IsReservedRow.opc {i : Instr} (h : i.IsReservedRow) : i.opc = 0b01#2 := by
  obtain rfl | ⟨sel, rfl⟩ | ⟨sel, rfl⟩ := h <;> rfl

theorem decodeAction_isReservedRow_iff (s : BitVec 3) : (decodeAction s).IsReservedRow ↔ 5 ≤ s.toNat := by
  unfold Instr.IsReservedRow
  revert s; decide

theorem decodeMovement_isReservedRow_iff (s : BitVec 3) : (decodeMovement s).IsReservedRow ↔ 4 ≤ s.toNat := by
  unfold Instr.IsReservedRow
  revert s; decide

theorem decode_isReservedRow_iff (op : OpWord) : (decode op).IsReservedRow ↔ OpWord.isReserved op = true := by
  by_cases hopc : OpWord.opc op = 0b01#2
  · rw [decode_of_opc_encode hopc]
    cases hk : OpWord.k op with
    | false => simp [OpWord.isReserved, hopc, hk, decodeAction_isReservedRow_iff]
    | true => simp [OpWord.isReserved, hopc, hk, decodeMovement_isReservedRow_iff]
  · have hrow : ¬ (decode op).IsReservedRow := fun h => hopc ((opc_decode op).symm.trans h.opc)
    simp [hrow, Machine.isReserved_of_opc_ne hopc]

/-- The seven reserved words as numbers: in the range of class ENCODE, bit 3 is `K` and the rest is `S` (R60). -/
theorem isReserved_iff_toNat_mem (op : OpWord) :
    OpWord.isReserved op = true ↔ op.toNat ∈ [0x15, 0x16, 0x17, 0x1C, 0x1D, 0x1E, 0x1F] := by
  simp only [OpWord.isReserved, Bool.and_eq_true, beq_iff_eq, OpWord.opc_eq_iff, BitVec.reduceToNat,
    OpWord.k_eq_decide, decide_eq_true_eq, OpWord.s_toNat, List.mem_cons, List.not_mem_nil, or_false]
  split <;> simp only [decide_eq_true_eq] <;> omega

end Sys2Proof
end

section
/-! PROOFS. The control operations (R120 to R123): the cells a `TAKE` hands over, and the obligations on `NOP`, `TAKE`,
`RESET` and the reserved words. -/

namespace Sys2Proof.Machine

/-- The held frame lists the cells below `LEN` in index order, index 0 first (R43). -/
theorem Block.heldFrame_eq_cells (b : Block) :
    b.heldFrame = (List.range b.len.toNat).filterMap fun i => b.fb[i]? := by
  rw [Block.heldFrame]
  induction b.len.toNat with
  | zero => rfl
  | succ n ih =>
    rw [List.take_add_one, ih, List.range_succ, List.filterMap_append, Vector.getElem?_toList]
    rfl

/-- Settles O25: `NOP` ends its step with the block it met. -/
theorem nopChangesNothing : Obligations.NopChangesNothing :=
  ⟨fun op => (decode_eq_nop_iff op).symm, exec_nop⟩

/-- Settles O26: the held frame is the cells below `LEN` in order, and under the invariants it is a legal frame. -/
theorem takeHandsOver : Obligations.TakeHandsOver := by
  refine ⟨fun op => (decode_eq_take_iff op).symm, fun low s hvalid => ?_, fun low s => execTake_of_not_valid low,
    fun b hinv hvalid => ?_⟩
  · rw [← Block.heldFrame_eq_cells]
    exact execTake_of_valid low hvalid
  · rw [← Block.heldFrame_eq_cells]
    exact hinv.heldFrame_mem_legalFrames hvalid

/-- Settles O27: `RESET` leaves `Block.reset`, whose items are zero by definition. -/
theorem resetClearsBlock : Obligations.ResetClearsBlock :=
  ⟨fun op => (decode_eq_reset_iff op).symm, exec_reset⟩

/-- Settles O28: the reserved rows share `StepReserved`, which leaves `Block.discarded`; a command's word builds its
block from any state, so from that one too. -/
theorem reservedBuildsNothing : Obligations.ReservedBuildsNothing := by
  refine ⟨fun op => (isReserved_iff_toNat_mem op).symm.trans (decode_isReservedRow_iff op).symm, fun s => ?_⟩
  exact ⟨stepReserved_eq s, fun _ => stepReserved_eq s, fun _ => stepReserved_eq s, rfl,
    fun low => execTake_of_not_valid low Block.discarded_valid, fun low => exec_nop low _,
    fun c => ⟨_, _, exec_commandWord c _, exec_commandWord c s, rfl, c.builtBlock_err, c.builtBlock_valid⟩⟩

end Sys2Proof.Machine
end

section
/-! PROOFS. The outcomes of the words (R130): the reserved words by their fields, what a `TAKE` answers, and the
obligations on failing outcomes and on what a failure leaves to undo (R131, R135). -/

namespace Sys2Proof.Machine

/-- The reserved words by the fields of R60, as R130 states them. -/
theorem isReserved_iff_fields (op : OpWord) :
    OpWord.isReserved op = true ↔ op.extractLsb' 4 2 = 0b01#2 ∧
      ((op.getLsbD 3 = false ∧ 5 ≤ (op.extractLsb' 0 3).toNat) ∨
        (op.getLsbD 3 = true ∧ 4 ≤ (op.extractLsb' 0 3).toNat)) := by
  change _ ↔ OpWord.opc op = 0b01#2 ∧
    ((OpWord.k op = false ∧ 5 ≤ (OpWord.s op).toNat) ∨ (OpWord.k op = true ∧ 4 ≤ (OpWord.s op).toNat))
  cases hk : OpWord.k op <;> simp [OpWord.isReserved, hk]

theorem exec_reservedWord {op : OpWord} (hres : OpWord.isReserved op = true) (s : State) :
    exec (decode op) s = .next ⟨Block.discarded, s.host, s.outcomes ++ [.unknownCommand]⟩ := by
  cases wordMeaning op with
  | reserved _ _ _ hexec => exact hexec s
  | command _ _ _ hnot => simp [hnot] at hres
  | nop hopc | take hopc | reset hopc => simp [isReserved_of_opc_ne, hopc] at hres

theorem Block.takeOutcome_eq_noFrame_iff (b : Block) : b.takeOutcome = .noFrame ↔ b.valid = false := by
  cases hvalid : b.valid <;> simp [takeOutcome, hvalid]

theorem Block.takeOutcome_ne_unknownCommand (b : Block) : b.takeOutcome ≠ .unknownCommand := by
  cases hvalid : b.valid <;> simp [takeOutcome, hvalid]

/-- Clearing a `VALID` that is already 0 changes nothing. -/
theorem Block.flagTaken_of_not_valid {b : Block} (h : b.valid = false) : b.flagTaken = b := by
  rw [flagTaken, ← h]

/-- When a word ends with each of the two failing outcomes, and the block it then leaves (R130). -/
theorem exec_word_failing_iff (op : OpWord) (s : State) :
    ∃ b o, exec (decode op) s = .next ⟨b, s.host, s.outcomes ++ [o]⟩ ∧
      (o = .unknownCommand ↔ OpWord.isReserved op = true) ∧
      (o = .noFrame ↔ op.extractLsb' 4 2 = 0b10#2 ∧ s.block.valid = false) ∧
      (o = .unknownCommand → b = Block.discarded) ∧ (o = .noFrame → b = s.block) := by
  cases wordMeaning op with
  | nop hopc hexec | reset hopc hexec =>
    exact ⟨_, _, hexec s, by simp [isReserved_of_opc_ne, hopc], by simp [hopc], nofun, nofun⟩
  | command c hopc _ hres hexec => exact ⟨_, _, hexec s, by simp [hres], by simp [hopc], nofun, nofun⟩
  | reserved hopc _ hres hexec => exact ⟨_, _, hexec s, by simp [hres], by simp [hopc], fun _ => rfl, nofun⟩
  | take hopc hexec =>
    have hne := s.block.takeOutcome_ne_unknownCommand
    have hiff := s.block.takeOutcome_eq_noFrame_iff
    exact ⟨_, _, hexec s, by simp [isReserved_of_opc_ne, hopc, hne], by simp [hopc, hiff],
      fun h => absurd h hne, fun h => Block.flagTaken_of_not_valid (hiff.1 h)⟩

/-- Settles O44: `UnknownCommand` is the outcome of the reserved words, whose block is `Block.discarded`; `NoFrame` that
of a `TAKE` with `VALID = 0`. -/
theorem outcomeTable : Obligations.OutcomeTable := by
  intro op s
  obtain ⟨b, o, hexec, hunknown, hnoFrame, hdiscarded, hsame⟩ := exec_word_failing_iff op s
  refine ⟨_, o, hexec, rfl, hunknown.trans (isReserved_iff_fields op), hnoFrame, fun ho => ?_, hsame, ?_⟩
  · obtain rfl := hdiscarded ho
    exact ⟨rfl, rfl, rfl, fun j => by simp⟩
  · cases o <;> simp

/-- Settles O45: each of these words ends its step with `Ok` from any state. -/
theorem commandsNeverFail : Obligations.CommandsNeverFail :=
  ⟨fun c s => ⟨_, exec_commandWord c s, rfl⟩, fun low s => ⟨_, exec_nop low s, rfl⟩,
    fun low s => ⟨_, exec_reset low s, rfl⟩⟩

/-- Settles O49: a reserved word leaves `Block.discarded`; commands, `RESET` and reserved words read nothing of it. -/
theorem failureRecovery : Obligations.FailureRecovery := by
  refine ⟨fun low s hvalid => ⟨_, execTake_of_not_valid low hvalid, rfl⟩, fun op s hres => ?_⟩
  refine ⟨_, exec_reservedWord hres s, rfl, fun c => ?_, fun low => ?_, fun op' hres' => ?_⟩
  · exact ⟨_, exec_commandWord c _, rfl, rfl, c.builtBlock_heldFrame⟩
  · exact ⟨_, exec_reset low _, rfl⟩
  · exact ⟨_, exec_reservedWord hres' _, rfl, rfl⟩

end Sys2Proof.Machine
end

section
/-! PROOFS. Runs as the host sees them (R162, R151): every run completes with one outcome for each word, and without a
command's word no frame leaves a block in which none waits. -/

namespace Sys2Proof.Machine

/-- A run of words ends as one step does: the host's side is as it was, and each word has added its outcome. -/
theorem runWords_endSteps (ops : List OpWord) (s : State) :
    ∃ b os, s.runWords ops = .next ⟨b, s.host, s.outcomes ++ os⟩ ∧ os.length = ops.length := by
  induction ops generalizing s with
  | nil => exact ⟨s.block, [], by rw [List.append_nil, runWords_nil], rfl⟩
  | cons op ops ih =>
    obtain ⟨c, o, hexec⟩ := exec_endStep (decode op) s
    obtain ⟨b, os, hrun, hlen⟩ := ih ⟨c, s.host, s.outcomes ++ [o]⟩
    refine ⟨b, o :: os, ?_, congrArg (· + 1) hlen⟩
    rw [runWords_cons_of_exec ops hexec, hrun, List.append_assoc, List.singleton_append]

/-- Only a command's word sets `VALID` (R23). -/
theorem exec_word_keeps_not_valid {op : OpWord} {s t : State} (hword : Command.ofWord op = none)
    (hvalid : s.block.valid = false) (hstep : exec (decode op) s = .next t) : t.block.valid = false := by
  cases wordMeaning op with
  | nop _ hexec => cases (hexec s).symm.trans hstep; exact hvalid
  | command c _ hsome => cases hword.symm.trans hsome
  | reserved _ _ _ hexec => cases (hexec s).symm.trans hstep; exact Block.discarded_valid
  | take _ hexec => cases (hexec s).symm.trans hstep; exact s.block.flagTaken_valid
  | reset _ hexec => cases (hexec s).symm.trans hstep; exact Block.reset_valid

/-- With no frame waiting, words none of which spells a command hand no frame over. -/
theorem frame_of_runWords_no_command {ops : List OpWord} (hops : ∀ op ∈ ops, Command.ofWord op = none) {s t : State}
    (hvalid : s.block.valid = false) (hrun : s.runWords ops = .next t) {f : List Byte} (hf : .frame f ∈ t.outcomes) :
    .frame f ∈ s.outcomes := by
  induction ops generalizing s with
  | nil => cases hrun; exact hf
  | cons op ops ih =>
    obtain ⟨hop, hrest⟩ := List.forall_mem_cons.1 hops
    obtain ⟨b, o, hexec⟩ := exec_endStep (decode op) s
    rw [runWords_cons_of_exec ops hexec] at hrun
    have hmid := ih hrest (exec_word_keeps_not_valid hop hvalid hexec) hrun
    obtain hbefore | ⟨hwaits, -⟩ := frame_of_exec_word hexec hmid
    · exact hbefore
    · simp [hvalid] at hwaits

/-- Settles O2: the reset block has `VALID = 0`, and of all words only a command's sets it; a command builds its block
from any state, so from reset too. -/
theorem straightAfterReset : Obligations.StraightAfterReset := by
  refine ⟨rfl, fun low => execTake_of_not_valid low Block.reset_valid, fun low => exec_nop low State.reset,
    fun c s => ?_, fun ops hops => ?_⟩
  · exact ⟨_, _, exec_commandWord c State.reset, exec_commandWord c s, rfl, c.builtBlock_valid,
      c.builtBlock_heldFrame, rfl⟩
  · obtain ⟨t, hrun⟩ := runWords_completes ops State.reset
    exact ⟨t, hrun, fun f hf =>
      List.not_mem_nil (frame_of_runWords_no_command hops Block.reset_valid hrun hf)⟩

/-- Settles O43: the step of a presented word is its meaning's, which ends with one outcome whatever the state; runs
are such steps one after another. -/
theorem everyWordAccepted : Obligations.EveryWordAccepted := by
  refine ⟨fun s op rest hhost => ?_, fun ops s => ?_, fun s low => ?_⟩
  · obtain ⟨b, o, hexec⟩ := exec_endStep (decode op) ⟨s.block, rest, s.outcomes⟩
    exact ⟨_, o, (step_word hhost).trans hexec, rfl, rfl⟩
  · obtain ⟨b, os, hrun, hlen⟩ := runWords_endSteps ops s
    exact ⟨_, hrun, rfl, by rw [List.length_append, hlen]⟩
  · exact ⟨_, exec_reset low s, rfl⟩

end Sys2Proof.Machine
end

section
/-! PROOFS. The decoder and the encoder as inverses (R60, R64): a word is its fields put together, and each decoder by
selector is undone by `encodeFields`. -/

namespace Sys2Proof

/-- The fields of a word outside class ENCODE are the ones it is put together from. -/
theorem OpWord.fields_append (opc : BitVec 2) (low : BitVec 4) :
    OpWord.opc (opc ++ low) = opc ∧ OpWord.low (opc ++ low) = low := by
  revert opc low; decide

/-- A word is its class and its low bits put together. -/
theorem OpWord.append_low_of_opc {op : OpWord} {opc : BitVec 2} (h : OpWord.opc op = opc) :
    opc ++ OpWord.low op = op := by
  subst h
  revert op; decide

/-- A word of class ENCODE is its `K` and its `S` put together. -/
theorem OpWord.encodeFields_of_opc {op : OpWord} (h : OpWord.opc op = 0b01#2) :
    encodeFields (OpWord.k op) (OpWord.s op) = op := by
  revert op; decide

theorem decode_encodeFields (k : Bool) (s : BitVec 3) :
    decode (encodeFields k s) = if k then decodeMovement s else decodeAction s := by
  obtain ⟨hopc, hk, hs⟩ := OpWord.fields_encode (BitVec.ofBool k) s
  have hword : encodeFields k s = 0b01#2 ++ BitVec.ofBool k ++ s := rfl
  rw [hword, decode_of_opc_encode hopc, hk, hs]
  cases k <;> rfl

theorem encode_decodeAction (s : BitVec 3) : encode (decodeAction s) = encodeFields false s := by
  revert s; decide

theorem encode_decodeMovement (s : BitVec 3) : encode (decodeMovement s) = encodeFields true s := by
  revert s; decide

theorem decodeAction_of_six_le {s : BitVec 3} (h : 6 ≤ s.toNat) : decodeAction s = .reservedAct67 s := by
  revert s; decide

theorem decodeMovement_of_four_le {s : BitVec 3} (h : 4 ≤ s.toNat) : decodeMovement s = .reservedMov47 s := by
  revert s; decide

theorem wellFormed_decodeAction (s : BitVec 3) : (decodeAction s).wellFormed = true := by
  revert s; decide

theorem wellFormed_decodeMovement (s : BitVec 3) : (decodeMovement s).wellFormed = true := by
  revert s; decide

theorem decode_encode {i : Instr} (h : i.wellFormed = true) : decode (encode i) = i := by
  cases i with
  | nop low =>
    obtain ⟨hopc, hlow⟩ := OpWord.fields_append 0b00#2 low
    exact (decode_of_opc_nop hopc).trans (congrArg Instr.nop hlow)
  | take low =>
    obtain ⟨hopc, hlow⟩ := OpWord.fields_append 0b10#2 low
    exact (decode_of_opc_take hopc).trans (congrArg Instr.take hlow)
  | reset low =>
    obtain ⟨hopc, hlow⟩ := OpWord.fields_append 0b11#2 low
    exact (decode_of_opc_reset hopc).trans (congrArg Instr.reset hlow)
  | reservedAct67 sel =>
    exact (decode_encodeFields false sel).trans (decodeAction_of_six_le (of_decide_eq_true h))
  | reservedMov47 sel =>
    exact (decode_encodeFields true sel).trans (decodeMovement_of_four_le (of_decide_eq_true h))
  | actDance | actMusic | actStory | actExercise | actVoice | reservedAct5 => exact decode_encodeFields false _
  | movForward | movLeft | movBackward | movRight => exact decode_encodeFields true _

theorem encode_decode (op : OpWord) : encode (decode op) = op := by
  cases Machine.wordMeaning op with
  | nop hopc => rw [decode_of_opc_nop hopc]; exact OpWord.append_low_of_opc hopc
  | take hopc => rw [decode_of_opc_take hopc]; exact OpWord.append_low_of_opc hopc
  | reset hopc => rw [decode_of_opc_reset hopc]; exact OpWord.append_low_of_opc hopc
  | command _ hopc | reserved hopc =>
    have hfields := OpWord.encodeFields_of_opc hopc
    rw [decode_of_opc_encode hopc]
    cases hk : OpWord.k op with
    | false => exact (encode_decodeAction _).trans (hk ▸ hfields)
    | true => exact (encode_decodeMovement _).trans (hk ▸ hfields)

theorem wellFormed_decode (op : OpWord) : (decode op).wellFormed = true := by
  cases Machine.wordMeaning op with
  | nop hopc => rw [decode_of_opc_nop hopc]; rfl
  | take hopc => rw [decode_of_opc_take hopc]; rfl
  | reset hopc => rw [decode_of_opc_reset hopc]; rfl
  | command _ hopc | reserved hopc =>
    rw [decode_of_opc_encode hopc]
    split
    · exact wellFormed_decodeMovement _
    · exact wellFormed_decodeAction _

/-- The rows of the table that hold a well-formed instruction's word are its own row alone (R64). -/
theorem encodingRow : (i : Instr) → Laws.EncodingRow.Statement i
  | .nop low => Laws.EncodingRow.nop low
  | .actDance => Laws.EncodingRow.actDance
  | .actMusic => Laws.EncodingRow.actMusic
  | .actStory => Laws.EncodingRow.actStory
  | .actExercise => Laws.EncodingRow.actExercise
  | .actVoice => Laws.EncodingRow.actVoice
  | .reservedAct5 => Laws.EncodingRow.reservedAct5
  | .reservedAct67 sel => Laws.EncodingRow.reservedAct67 sel
  | .movForward => Laws.EncodingRow.movForward
  | .movLeft => Laws.EncodingRow.movLeft
  | .movBackward => Laws.EncodingRow.movBackward
  | .movRight => Laws.EncodingRow.movRight
  | .reservedMov47 sel => Laws.EncodingRow.reservedMov47 sel
  | .take low => Laws.EncodingRow.take low
  | .reset low => Laws.EncodingRow.reset low

namespace Machine

theorem Command.ofWord_word (c : Command) : Command.ofWord c.word = some c := by
  cases c with
  | act a => cases a <;> rfl
  | mov d => cases d <;> rfl

/-- A word of class ENCODE spells a command only with the command's own `K` and selector. -/
theorem Command.ofWord_eq_some_iff {op : OpWord} {c : Command} : Command.ofWord op = some c ↔ op = c.word := by
  refine ⟨fun h => ?_, fun h => h ▸ c.ofWord_word⟩
  cases wordMeaning op with
  | command _ hopc | reserved hopc =>
    rw [← OpWord.encodeFields_of_opc hopc] at h ⊢
    cases hk : OpWord.k op with
    | false =>
      obtain ⟨a, ha, rfl⟩ := Option.map_eq_some_iff.1 ((Command.ofWord_encode 0b0#1 _).symm.trans (hk ▸ h))
      rw [ActionKind.eq_selector_of_ofSelector ha, Command.word]
    | true =>
      obtain ⟨d, hd, rfl⟩ := Option.map_eq_some_iff.1 ((Command.ofWord_encode 0b1#1 _).symm.trans (hk ▸ h))
      rw [DirectionKind.eq_selector_of_ofSelector hd, Command.word]
  | nop hopc | take hopc | reset hopc => simp [Command.ofWord, OpWord.opc, hopc, OpClass.ofOpc] at h

/-- The frame tells the kind by its length and the member by its code byte (R65, R66). -/
theorem encodeCommand_injective : Function.Injective encodeCommand := by
  intro c e h
  cases c with
  | act a =>
    cases e with
    | act b => exact congrArg Command.act (encodeAction_injective h)
    | mov d => exact absurd (congrArg List.length h) (by simp [encodeCommand, actLen, movLen])
  | mov d =>
    cases e with
    | act b => exact absurd (congrArg List.length h) (by simp [encodeCommand, actLen, movLen])
    | mov f => exact congrArg Command.mov (encodeMovement_injective h)

theorem Command.all_nodup : Command.all.Nodup := by decide

/-- Settles O5: a word is its fields put together, and the selector decoders are undone by `encodeFields`. -/
theorem decodeEncodeAgree : Obligations.DecodeEncodeAgree :=
  ⟨fun _ => decode_encode, encode_decode,
    fun i => ⟨fun h => ⟨encode i, decode_encode h⟩, fun ⟨op, hop⟩ => hop ▸ wellFormed_decode op⟩⟩

/-- Settles O4: a word is the encoding of the instruction it decodes to, whose own row alone holds that encoding. -/
theorem tableRowsPartitionWords : Obligations.TableRowsPartitionWords := by
  intro op
  have hrow := encodingRow (decode op) (wellFormed_decode op)
  rwa [encode_decode] at hrow

/-- Settles O6: each word is evaluated by the decoder. -/
theorem specWordsDecode : Obligations.SpecWordsDecode :=
  ⟨rfl, rfl, rfl, rfl, rfl, rfl, rfl, rfl, rfl, rfl, rfl⟩

/-- Settles O10: the nine commands are different, and both the word and the frame of a command tell which it is. -/
theorem nineCommandsClosed : Obligations.NineCommandsClosed :=
  ⟨rfl, Command.all_nodup, Command.mem_all, fun _ _ => Command.ofWord_eq_some_iff, rfl,
    Command.all_nodup.map encodeCommand_injective⟩

end Machine
end Sys2Proof
end

section
/-! PROOFS. The obligations on one step (R10, R30, R133): the step by the host's next event, and what a step that hands
a frame over has met. -/

namespace Sys2Proof.Machine

theorem step_present (op : OpWord) (s : State) : step (s.present op) = exec (decode op) s := rfl

theorem withFetchWord_of_lt {w : Nat} (h : w < 64) (nbits : Nat) (s : State) :
    s.withFetchWord nbits w = s.present (BitVec.ofNat 6 w) := by
  have hraw : OpWord.ofRaw w = .ok (BitVec.ofNat 6 w) := if_pos h
  simp [State.withFetchWord, hraw]

/-- Only a `TAKE` ends its step with a frame, and then the block's held frame (R121). -/
theorem exec_word_frame {op : OpWord} {s t : State} {f : List Byte} (hstep : exec (decode op) s = .next t)
    (hout : t.outcomes = s.outcomes ++ [.frame f]) :
    op.extractLsb' 4 2 = 0b10#2 ∧ s.block.valid = true ∧ f = s.block.heldFrame := by
  cases wordMeaning op with
  | take hopc hexec =>
    cases (hexec s).symm.trans hstep
    cases hvalid : s.block.valid with
    | true => simpa [hopc, Block.takeOutcome, hvalid, eq_comm] using hout
    | false => simp [Block.takeOutcome, hvalid] at hout
  | nop _ hexec | command _ _ _ _ hexec | reserved _ _ _ hexec | reset _ hexec =>
    cases (hexec s).symm.trans hstep
    simp at hout

/-- A legal frame carries the checksum of its own span (R69). -/
theorem checksum_of_mem_legalFrames {f : List Byte} (hf : f ∈ legalFrames) :
    (f.length = 6 ∧ f[4]? = some (checksum8 (spanOf actCkSpan f))) ∨
      (f.length = 10 ∧ f[9]? = some (checksum8 (spanOf movCkSpan f))) := by
  obtain ⟨c, rfl⟩ := mem_legalFrames_iff.1 hf
  cases c with
  | act a => exact .inl ⟨encodeAction_length a, encodeAction_checksum a⟩
  | mov d => exact .inr ⟨encodeMovement_length d, encodeMovement_checksum d⟩

/-- Settles O33: what a step hands over is the held frame of a block with `VALID = 1`, legal under the invariants. -/
theorem stepKeepsInvariant : Obligations.StepKeepsInvariant := fun _ _ hinv hlegal hstep =>
  ⟨step_keeps_inv hinv hstep, step_keeps_onlyLegalFrames hinv hlegal hstep⟩

/-- Settles O32: the reset block is empty, and no outcome has been recorded. -/
theorem resetMeetsInvariant : Obligations.ResetMeetsInvariant :=
  ⟨Block.reset_inv, fun _ hf => absurd hf List.not_mem_nil⟩

/-- Settles O39: a presented word is accepted and executed; an encoding decodes to its instruction. -/
theorem stepRunsDecodedWord : Obligations.StepRunsDecodedWord := by
  refine ⟨fun s op rest => step_word, fun s i hwf => ?_, fun s w hw => ?_⟩
  · rw [step_present, decode_encode hwf]
  · rw [withFetchWord_of_lt hw, step_present]

/-- Settles O40: with no event the step accepts the state as it is. -/
theorem idleHoldsState : Obligations.IdleHoldsState := fun _ => step_idle

/-- Settles O41: the pin reset is taken from the host's list and leaves `Block.reset`. -/
theorem pinResetStep : Obligations.PinResetStep := fun _ _ => step_pinReset

/-- Settles O42: of the host's four cases only contention stops; a word's meaning always answers a next state. -/
theorem onlyContentionStops : Obligations.OnlyContentionStops := by
  refine ⟨fun _ _ => step_contention, fun s hno => ?_⟩
  match hhost : s.host with
  | [] => exact ⟨s, step_idle hhost⟩
  | .word op :: rest =>
    obtain ⟨b, o, hexec⟩ := exec_endStep (decode op) ⟨s.block, rest, s.outcomes⟩
    exact ⟨_, (step_word hhost).trans hexec⟩
  | .pinReset :: rest => exact ⟨_, step_pinReset hhost⟩
  | .contention :: rest => exact absurd hhost (hno rest)

/-- Settles O50: of the host's events only a `TAKE` word adds a frame, the held one, which is legal under the
invariants. -/
theorem noFrameBeforeChecksum : Obligations.NoFrameBeforeChecksum := by
  intro s t f hinv hstep hout
  match hhost : s.host with
  | [] => cases (step_idle hhost).symm.trans hstep; simp at hout
  | .word op :: rest =>
    obtain ⟨hopc, hvalid, rfl⟩ :=
      exec_word_frame (s := ⟨s.block, rest, s.outcomes⟩) ((step_word hhost).symm.trans hstep) hout
    exact ⟨hvalid, ⟨op, rest, rfl, hopc⟩, checksum_of_mem_legalFrames (hinv.heldFrame_mem_legalFrames hvalid)⟩
  | .pinReset :: rest => cases (step_pinReset hhost).symm.trans hstep; simp at hout
  | .contention :: rest => cases (step_contention hhost).symm.trans hstep

end Sys2Proof.Machine
end

section
/-! PROOFS. What each operation writes and reads (R32), and what an ENCODE word or a `RESET` forgets (R155). -/

namespace Sys2Proof.Machine

theorem stepAct_writes {a : ActionKind} {s t : State} (h : stepAct a s = .next t) :
    t.host = s.host ∧ (∃ o, t.outcomes = s.outcomes ++ [o]) ∧
      t.block.len = 6 ∧ t.block.valid = true ∧ t.block.err = false ∧ ∀ j : Fin 10, 6 ≤ j.val → t.block.fb[j] = 0 := by
  cases (stepAct_eq a s).symm.trans h
  exact ⟨rfl, ⟨_, rfl⟩, rfl, rfl, rfl, (Command.act a).builtBlock_inv.tail_zero⟩

theorem stepMov_writes {d : DirectionKind} {s t : State} (h : stepMov d s = .next t) :
    t.host = s.host ∧ (∃ o, t.outcomes = s.outcomes ++ [o]) ∧
      t.block.len = 10 ∧ t.block.valid = true ∧ t.block.err = false := by
  cases (stepMov_eq d s).symm.trans h
  exact ⟨rfl, ⟨_, rfl⟩, rfl, rfl, rfl⟩

theorem stepReserved_writes {s t : State} (h : stepReserved s = .next t) :
    t.host = s.host ∧ (∃ o, t.outcomes = s.outcomes ++ [o]) ∧
      t.block.len = 0 ∧ t.block.valid = false ∧ t.block.err = true ∧ ∀ j : Fin 10, t.block.fb[j] = 0 := by
  cases (stepReserved_eq s).symm.trans h
  exact ⟨rfl, ⟨_, rfl⟩, rfl, rfl, rfl, fun j => by simp⟩

/-- What a `TAKE` hands over depends on `LEN` and on the cells below it alone. -/
theorem Block.heldFrame_congr {b c : Block} (hlen : b.len = c.len)
    (hcells : ∀ j : Fin 10, j.val < b.len.toNat → b.fb[j] = c.fb[j]) : b.heldFrame = c.heldFrame := by
  rw [heldFrame_eq_cells, heldFrame_eq_cells, ← hlen]
  refine List.filterMap_congr fun i hi => ?_
  by_cases h10 : i < 10
  · have hcell : b.fb[i] = c.fb[i] := hcells ⟨i, h10⟩ (List.mem_range.1 hi)
    rw [Vector.getElem?_eq_getElem h10, Vector.getElem?_eq_getElem h10, hcell]
  · rw [Vector.getElem?_eq_none (by omega), Vector.getElem?_eq_none (by omega)]

/-- The outcome of a `TAKE` depends on `VALID` and, where a frame waits, on that frame. -/
theorem Block.takeOutcome_congr {b c : Block} (hvalid : b.valid = c.valid)
    (hheld : b.valid = true → b.heldFrame = c.heldFrame) : b.takeOutcome = c.takeOutcome := by
  rw [takeOutcome, takeOutcome, ← hvalid]
  split
  · next h => rw [hheld h]
  · rfl

theorem exec_word_reads_no_block {op : OpWord}
    (hop : op.extractLsb' 4 2 = 0b01#2 ∨ op.extractLsb' 4 2 = 0b11#2) :
    ∃ b o, ∀ s, exec (decode op) s = .next ⟨b, s.host, s.outcomes ++ [o]⟩ := by
  cases wordMeaning op with
  | command c _ _ _ hexec => exact ⟨_, _, hexec⟩
  | reserved _ _ _ hexec => exact ⟨_, _, hexec⟩
  | reset _ hexec => exact ⟨_, _, hexec⟩
  | nop hopc | take hopc => simp [hopc] at hop

/-- Settles O30: each instruction is one of the shared steps, and the step's result is read off. -/
theorem writesAsTabled : Obligations.WritesAsTabled := by
  intro i s t h
  cases i with
  | nop low => cases (exec_nop low s).symm.trans h; exact ⟨rfl, ⟨_, rfl⟩, rfl⟩
  | take low => cases (exec_take low s).symm.trans h; exact ⟨rfl, ⟨_, rfl⟩, rfl, rfl, rfl, rfl⟩
  | reset low =>
    cases (exec_reset low s).symm.trans h
    exact ⟨rfl, ⟨_, rfl⟩, rfl, rfl, rfl, fun j => by simp⟩
  | actDance | actMusic | actStory | actExercise | actVoice => exact stepAct_writes h
  | movForward | movLeft | movBackward | movRight => exact stepMov_writes h
  | reservedAct5 | reservedAct67 | reservedMov47 => exact stepReserved_writes h

/-- Settles O31: only `NOP` and `TAKE` read the block, and the held frame is the cells below `LEN`. -/
theorem readsAsTabled : Obligations.ReadsAsTabled := by
  refine ⟨fun i => exec_reads_no_block, fun low => ⟨.ok, exec_nop low⟩, fun low s u t v hs hu hvalid hout hread => ?_⟩
  cases (exec_take low s).symm.trans hs
  cases (exec_take low u).symm.trans hu
  have htake : s.block.takeOutcome = u.block.takeOutcome := by
    refine Block.takeOutcome_congr hvalid fun hwaits => ?_
    obtain ⟨hlen, hcells⟩ := hread hwaits
    exact Block.heldFrame_congr hlen hcells
  exact ⟨by rw [hout, htake], rfl⟩

/-- Settles O48: the first word leaves one block and one outcome from any state, so the runs meet after one step. -/
theorem overwriteLosesFrame : Obligations.OverwriteLosesFrame := by
  intro s u op ops hop hhost hout
  obtain ⟨b, o, hexec⟩ := exec_word_reads_no_block hop
  rw [runWords_cons_of_exec ops (hexec s), runWords_cons_of_exec ops (hexec u), hhost, hout]

end Sys2Proof.Machine
end

section
/-! PROOFS. Counting and naming the frames a run hands over (`95_test_vectors.md` section 6, R75). -/

namespace Sys2Proof.Machine

theorem frameCount_cons (o : StepOutcome) (os : List StepOutcome) :
    frameCount (o :: os) = frameCount [o] + frameCount os :=
  List.countP_append (l₁ := [o]) (l₂ := os)

theorem legalCount_cons (op : OpWord) (ops : List OpWord) :
    legalCount (op :: ops) = legalCount [op] + legalCount ops :=
  List.countP_append (l₁ := [op]) (l₂ := ops)

/-- How many frames wait in a block: one or none (R23). -/
def Block.waitingCount (b : Block) : Nat := if b.valid then 1 else 0

theorem Block.frameCount_takeOutcome (b : Block) : frameCount [b.takeOutcome] = b.waitingCount := by
  cases hvalid : b.valid <;> simp [takeOutcome, waitingCount, frameCount, hvalid]

/-- One word pays for the frame it hands over, and for the one it leaves waiting, by the frame that waited and by being
a legal ENCODE word. -/
theorem exec_word_frameCount (op : OpWord) (s : State) :
    ∃ b o, exec (decode op) s = .next ⟨b, s.host, s.outcomes ++ [o]⟩ ∧
      frameCount [o] + b.waitingCount ≤ legalCount [op] + s.block.waitingCount := by
  cases wordMeaning op with
  | nop _ hexec => exact ⟨_, _, hexec s, Nat.add_le_add_right (Nat.zero_le _) _⟩
  | command c _ hword _ hexec =>
    have hlegal : legalCount [op] = 1 := by simp [legalCount, hword]
    exact ⟨_, _, hexec s, hlegal ▸ Nat.le_add_right 1 _⟩
  | reserved _ _ _ hexec | reset _ hexec => exact ⟨_, _, hexec s, Nat.zero_le _⟩
  | take _ hexec => exact ⟨_, _, hexec s, s.block.frameCount_takeOutcome ▸ Nat.le_add_left _ _⟩

/-- Settles O51, by induction over the words with the frame that waits counted. -/
theorem framesBoundedByEncodes : Obligations.FramesBoundedByEncodes := by
  intro ops
  induction ops with
  | nil => exact fun s => ⟨s, [], runWords_nil s, (List.append_nil _).symm, Nat.zero_le _⟩
  | cons op ops ih =>
    intro s
    obtain ⟨b, o, hexec, hword⟩ := exec_word_frameCount op s
    obtain ⟨t, os, hrun, hout, hrest⟩ := ih ⟨b, s.host, s.outcomes ++ [o]⟩
    refine ⟨t, o :: os, (runWords_cons_of_exec ops hexec).trans hrun, by simpa using hout, ?_⟩
    calc
      frameCount (o :: os) = frameCount [o] + frameCount os := frameCount_cons o os
      _ ≤ frameCount [o] + (legalCount ops + b.waitingCount) := Nat.add_le_add_left hrest _
      _ ≤ legalCount [op] + legalCount ops + s.block.waitingCount := by omega
      _ = legalCount (op :: ops) + s.block.waitingCount := by rw [legalCount_cons op ops]

/-- `SEND.<name>` is the command's step and then a `TAKE` of its frame, from any state. -/
theorem runWords_sendWords (c : Command) (s : State) :
    s.runWords c.sendWords =
      .next ⟨c.builtBlock.flagTaken, s.host, s.outcomes ++ [.ok, .frame (encodeCommand c)]⟩ := by
  have htake : takeWord.extractLsb' 4 2 = 0b10#2 := rfl
  rw [Command.sendWords, runWords_cons_of_exec _ (exec_commandWord c s),
    runWords_cons_of_exec _ (exec_takeWord htake _), runWords_nil, c.builtBlock_waits.takeOutcome_some,
    List.append_assoc]
  rfl

/-- Settles O52, by induction over the names: runs compose, and each `SEND` answers for itself. -/
theorem sendHandsOverEachFrame : Obligations.SendHandsOverEachFrame := by
  intro cs
  induction cs with
  | nil => exact fun s => ⟨s, runWords_nil s, (List.append_nil _).symm, rfl⟩
  | cons c cs ih =>
    intro s
    obtain ⟨t, hrun, hout, hhost⟩ := ih ⟨c.builtBlock.flagTaken, s.host, _⟩
    exact ⟨t, (runWords_append _ (runWords_sendWords c s)).trans hrun, by simpa using hout, hhost⟩

end Sys2Proof.Machine
end

section
/-! PROOFS. Two machines the host cannot tell apart (R21, R163): every step keeps them so, or stops both alike. -/

namespace Sys2Proof.Machine

/-- The same to the host so far and from here on. -/
def State.SameToHost (s u : State) : Prop :=
  s.host = u.host ∧ s.outcomes = u.outcomes ∧ s.block.SameToHost u.block

theorem Block.SameToHost.refl (b : Block) : b.SameToHost b := ⟨rfl, fun _ => rfl⟩

theorem Block.SameToHost.valid_eq {b c : Block} (h : b.SameToHost c) : b.valid = c.valid :=
  congrArg Outputs.valid h.1

theorem Block.SameToHost.takeOutcome_eq {b c : Block} (h : b.SameToHost c) : b.takeOutcome = c.takeOutcome :=
  takeOutcome_congr h.valid_eq h.2

/-- After a `TAKE` nothing waits, so of the buffer nothing is seen. -/
theorem Block.SameToHost.flagTaken {b c : Block} (h : b.SameToHost c) : b.flagTaken.SameToHost c.flagTaken := by
  obtain ⟨houtputs, -⟩ := h
  injection houtputs with hlen _ herr
  exact ⟨by simp [outputs, hlen, herr], fun hvalid => by simp at hvalid⟩

theorem exec_word_sameToHost (op : OpWord) {s u : State} (h : s.SameToHost u) :
    ∃ t v, exec (decode op) s = .next t ∧ exec (decode op) u = .next v ∧ t.SameToHost v := by
  obtain ⟨hhost, hout, hblock⟩ := h
  cases wordMeaning op with
  | nop _ hexec => exact ⟨_, _, hexec s, hexec u, hhost, congrArg (· ++ _) hout, hblock⟩
  | command _ _ _ _ hexec | reserved _ _ _ hexec | reset _ hexec =>
    exact ⟨_, _, hexec s, hexec u, hhost, congrArg (· ++ _) hout, .refl _⟩
  | take _ hexec =>
    exact ⟨_, _, hexec s, hexec u, hhost, congrArg₂ (· ++ [·]) hout hblock.takeOutcome_eq, hblock.flagTaken⟩

theorem step_sameToHost {s u : State} (h : s.SameToHost u) :
    (∃ t v, step s = .next t ∧ step u = .next v ∧ t.SameToHost v) ∨ ∃ r, step s = .fault r ∧ step u = .fault r := by
  obtain ⟨hhost, hout, hblock⟩ := h
  match hs : s.host with
  | [] => exact .inl ⟨s, u, step_idle hs, step_idle (hhost ▸ hs), hhost, hout, hblock⟩
  | .word op :: rest =>
    rw [step_word hs, step_word (hhost ▸ hs)]
    exact .inl (exec_word_sameToHost op ⟨rfl, hout, hblock⟩)
  | .pinReset :: rest => exact .inl ⟨_, _, step_pinReset hs, step_pinReset (hhost ▸ hs), rfl, hout, .refl _⟩
  | .contention :: rest => exact .inr ⟨_, step_contention hs, step_contention (hhost ▸ hs)⟩

theorem run_succ_of_step {n : Nat} {s t : State} (h : step s = .next t) :
    Host.Core.run Sys2Proof.core (n + 1) s = Host.Core.run Sys2Proof.core n t := by
  have hcore : Sys2Proof.core.step s = .next t := h
  simp only [Host.Core.run, hcore]

theorem run_succ_of_fault {n : Nat} {s : State} {r : Fault} (h : step s = .fault r) :
    Host.Core.run Sys2Proof.core (n + 1) s = .fault r := by
  have hcore : Sys2Proof.core.step s = .fault r := h
  simp only [Host.Core.run, hcore]

theorem run_sameObservation (n : Nat) {s u : State} (h : s.SameToHost u) :
    SameObservation (Host.Core.run Sys2Proof.core n s) (Host.Core.run Sys2Proof.core n u) := by
  induction n generalizing s u with
  | zero =>
    obtain ⟨-, hout, houtputs, -⟩ := h
    exact congrArg₂ Prod.mk hout houtputs
  | succ n ih =>
    obtain ⟨t, v, hs, hu, hnext⟩ | ⟨r, hs, hu⟩ := step_sameToHost h
    · rw [run_succ_of_step hs, run_succ_of_step hu]
      exact ih hnext
    · rw [run_succ_of_fault hs, run_succ_of_fault hu]
      rfl

/-- Settles O53, by induction over the steps with `State.SameToHost` kept between the two machines. -/
theorem bufferSeenOnlyThroughTake : Obligations.BufferSeenOnlyThroughTake := fun n _ _ hhost hout hblock =>
  run_sameObservation n ⟨hhost, hout, hblock⟩

end Sys2Proof.Machine
end

section
/-! PROOFS. The machine against the literal table (R64): word by word the same block and the same outcome. -/

namespace Sys2Proof.Machine

theorem tableStep_nop {op : OpWord} (h : op.toNat ≤ 0x0F) (b : Block) : tableStep op b = (b, .ok) := by
  unfold tableStep
  split
  case h_10 => exact if_pos h
  all_goals omega

theorem tableStep_reserved {op : OpWord} (h : op.toNat ∈ [0x15, 0x16, 0x17, 0x1C, 0x1D, 0x1E, 0x1F]) (b : Block) :
    tableStep op b = (Block.discarded, .unknownCommand) := by
  simp only [List.mem_cons, List.not_mem_nil, or_false] at h
  unfold tableStep
  split
  case h_10 => rw [if_neg (by omega), if_pos (by omega)]; rfl
  all_goals omega

theorem tableStep_take {op : OpWord} (hlo : 0x20 ≤ op.toNat) (hhi : op.toNat ≤ 0x2F) (b : Block) :
    tableStep op b = (b.flagTaken, b.takeOutcome) := by
  unfold tableStep
  split
  case h_10 =>
    rw [if_neg (by omega), if_neg (by omega), if_pos hhi]
    cases hvalid : b.valid with
    | true => simp [Block.flagTaken, Block.takeOutcome, Block.heldFrame, hvalid]
    | false => simp [Block.flagTaken_of_not_valid, Block.takeOutcome, hvalid]
  all_goals omega

theorem tableStep_reset {op : OpWord} (h : 0x30 ≤ op.toNat) (b : Block) : tableStep op b = (Block.reset, .ok) := by
  unfold tableStep
  split
  case h_10 => rw [if_neg (by omega), if_neg (by omega), if_neg (by omega)]; rfl
  all_goals omega

/-- The literal bytes of the nine rows are the frames the block computes. -/
theorem tableStep_command (c : Command) (b : Block) : tableStep c.word b = (c.builtBlock, .ok) := by
  cases c with
  | act a =>
    have hbuilt : (Command.act a).builtBlock =
        ⟨#v[0xB3, 0x02, opcodeByte a, 0x00, opcodeByte a, 0xAA, 0x00, 0x00, 0x00, 0x00], 6, true, false⟩ :=
      congrArg (Block.mk · 6 true false) (bufferOf_encodeAction a)
    rw [hbuilt]
    cases a <;> rfl
  | mov d =>
    have hbuilt : (Command.mov d).builtBlock =
        ⟨#v[0xB6, 0x06, 0x00, 0x05, directionByte d, 0x00, 0x00, 0x00, 0x00, 0x05 + directionByte d],
          10, true, false⟩ :=
      congrArg (Block.mk · 10 true false) (bufferOf_encodeMovement d)
    rw [hbuilt]
    cases d <;> rfl

theorem exec_word_eq_tableStep (op : OpWord) (s : State) :
    exec (decode op) s =
      .next ⟨(tableStep op s.block).1, s.host, s.outcomes ++ [(tableStep op s.block).2]⟩ := by
  cases wordMeaning op with
  | nop hopc hexec =>
    have hrange : op.toNat / 16 = 0 := OpWord.toNat_div_of_opc hopc
    rw [hexec, tableStep_nop (by omega)]
  | command c _ hword _ hexec => rw [hexec, Command.ofWord_eq_some_iff.1 hword, tableStep_command]
  | reserved _ _ hres hexec => rw [hexec, tableStep_reserved ((isReserved_iff_toNat_mem op).1 hres)]
  | take hopc hexec =>
    have hrange : op.toNat / 16 = 2 := OpWord.toNat_div_of_opc hopc
    rw [hexec, tableStep_take (by omega) (by omega)]
  | reset hopc hexec =>
    have hrange : op.toNat / 16 = 3 := OpWord.toNat_div_of_opc hopc
    rw [hexec, tableStep_reset (by omega)]

/-- Settles O54, by induction over the words, each of which the table steps as the machine does. -/
theorem runRefinesTable : Obligations.RunRefinesTable := by
  intro ops
  induction ops with
  | nil => exact fun s => by rw [runWords_nil, tableRun_nil, List.append_nil]
  | cons op ops ih =>
    intro s
    rw [runWords_cons_of_exec ops (exec_word_eq_tableStep op s), ih, tableRun_cons, List.append_assoc,
      List.singleton_append]

end Sys2Proof.Machine
end

section
/-! PROOFS. The assembler's text (R75, log 8): upper case changes neither where a line's comment begins nor which of its
characters are blanks, and every line of the table assembles to its words. -/

namespace Sys2Proof.Machine

/-- Upper case makes no character that is not a letter, and loses none. -/
theorem toUpper_eq_iff_of_not_isAlpha {c d : Char} (hd : d.isAlpha = false) : c.toUpper = d ↔ c = d := by
  by_cases hlower : c.isLower = true
  · have halpha : c.isAlpha = true := by simp [Char.isAlpha, hlower]
    exact iff_of_false (fun h => by simp [← h, halpha] at hd) (fun h => by simp [← h, halpha] at hd)
  · rw [Char.toUpper_eq_of_not_isLower hlower]

theorem isWhitespace_toUpper (c : Char) : c.toUpper.isWhitespace = c.isWhitespace := by
  simp only [Char.isWhitespace, toUpper_eq_iff_of_not_isAlpha (d := ' ') (by decide),
    toUpper_eq_iff_of_not_isAlpha (d := '\t') (by decide), toUpper_eq_iff_of_not_isAlpha (d := '\r') (by decide),
    toUpper_eq_iff_of_not_isAlpha (d := '\n') (by decide)]

theorem isWhitespace_comp_toUpper : Char.isWhitespace ∘ Char.toUpper = Char.isWhitespace :=
  funext isWhitespace_toUpper

theorem trimBlanks_map_toUpper (cs : List Char) :
    trimBlanks (cs.map Char.toUpper) = (trimBlanks cs).map Char.toUpper := by
  simp only [trimBlanks, List.dropWhile_map, ← List.map_reverse, isWhitespace_comp_toUpper]

/-- The part of a line before its comment. -/
def beforeComment (cs : List Char) : List Char := cs.takeWhile (fun c => c != ';')

theorem normalLine_eq (cs : List Char) : normalLine cs = (trimBlanks (beforeComment cs)).map Char.toUpper := rfl

theorem beforeComment_map_toUpper (cs : List Char) :
    beforeComment (cs.map Char.toUpper) = (beforeComment cs).map Char.toUpper := by
  have hsemi : (fun c => c != ';') ∘ Char.toUpper = fun c => c != ';' := by
    funext c
    simp only [Function.comp_apply, bne, Bool.beq_eq_decide_eq,
      toUpper_eq_iff_of_not_isAlpha (d := ';') (by decide)]
  rw [beforeComment, List.takeWhile_map, hsemi, beforeComment]

theorem beforeComment_append_comment (cs ds : List Char) : beforeComment (cs ++ ';' :: ds) = beforeComment cs := by
  induction cs with
  | nil => rfl
  | cons c cs ih =>
    simp only [beforeComment, List.cons_append, List.takeWhile_cons] at ih ⊢
    rw [ih]

theorem normalLine_map_toUpper (cs : List Char) : normalLine (cs.map Char.toUpper) = normalLine cs := by
  simp only [normalLine_eq, beforeComment_map_toUpper, trimBlanks_map_toUpper, List.map_map,
    Function.comp_def, Char.toUpper_toUpper_eq_toUpper]

theorem normalLine_append_comment (cs ds : List Char) : normalLine (cs ++ ';' :: ds) = normalLine cs := by
  rw [normalLine_eq, beforeComment_append_comment, normalLine_eq]

/-- Each line of the table is in normal form and stands in it once. -/
theorem assembleLine_of_mem_asmTable : ∀ p ∈ asmTable, assembleLine p.1 = .ok p.2 := by decide

theorem assembleLine_mnemonic (c : Command) : assembleLine c.mnemonic = .ok [c.word] :=
  assembleLine_of_mem_asmTable (c.mnemonic, [c.word]) <|
    List.mem_append_left _ <| List.mem_append_right _ <| List.mem_map_of_mem c.mem_all

theorem assembleLine_send (c : Command) : assembleLine ("SEND.".toList ++ c.name) = .ok c.sendWords :=
  assembleLine_of_mem_asmTable ("SEND.".toList ++ c.name, c.sendWords) <|
    List.mem_append_right _ <| List.mem_map_of_mem c.mem_all

/-- Settles O55: the thirteen lines are assembled one by one, and a command's two lines stand in the table. -/
theorem assemblerMnemonics : Obligations.AssemblerMnemonics :=
  ⟨by decide, fun c => ⟨assembleLine_send c, assembleLine_mnemonic c⟩⟩

/-- Settles O56: a line is read by its normal form, which upper case and a comment leave as it is. -/
theorem assemblerIgnoresCaseAndComment : Obligations.AssemblerIgnoresCaseAndComment :=
  ⟨fun cs => congrArg wordsOfLine (normalLine_map_toUpper cs),
    fun cs ds => congrArg wordsOfLine (normalLine_append_comment cs ds)⟩

end Sys2Proof.Machine
end
